-- ==== Sys2Proof/Word.lean ====
section
/-! DEFINITION. The word types of MUF (00_scope.md R6, R8): every value is an unsigned bit vector. -/

namespace Sys2Proof

/-- A byte, also a character of text (R8: "A *byte* is 8 bits. A *character* is one byte of text."). -/
abbrev Byte := BitVec 8

/-- A record's offset (R6: W_OFFSET is 16 bits). -/
abbrev Half := BitVec 16

/-- A command parameter, `ABASE`, `BAUD_CUR` (R6: W_PARAM and W_ABASE are 32 bits). -/
abbrev Word := BitVec 32

/-- A host operation code (R91: 4 bits). -/
abbrev Nibble := BitVec 4

end Sys2Proof
end

