-- ==== Sys2Proof/Config.lean ====
section
/-! DEFINITION. What an implementation fixes and what the spec leaves open.
The named constants are those of 00_scope.md R6 ("a model keeps each as a named constant of its configuration,
at the value given here").  The `opaque` constants are the open parameters of R7 and the free values of
93_implementation_defined.md: they have no body, so nothing can be proved of what they are. -/

namespace Sys2Proof

/-- Parity of the line format of `open` (R6). -/
inductive Parity where
  | none
  | even
  | odd
  deriving DecidableEq, Repr

/-- A serial line format (R6: DATA_BITS, PARITY, STOP_BITS). -/
structure LineFormat where
  dataBits : Nat
  parity : Parity
  stopBits : Nat
  deriving DecidableEq, Repr

/-! Wire opcodes (R6, R87). -/

abbrev Config.opSync : Byte := 0x00#8
abbrev Config.opCr : Byte := 0x0D#8
abbrev Config.opBaud : Byte := 0x42#8
abbrev Config.opLoad : Byte := 0x4C#8
abbrev Config.opVfy : Byte := 0x59#8
abbrev Config.opRun : Byte := 0x52#8

/-! Response bytes (R6, R88, R89). -/

abbrev Config.ackOk : Byte := 0x4B#8
abbrev Config.errInd : Byte := 0x45#8
abbrev Config.chLf : Byte := 0x0A#8
abbrev Config.chPrompt : Byte := 0x3E#8
/-- Device status byte "channel error"; no rule of MUF reads it (R205: the host reads the code). -/
abbrev Config.errcChn : Byte := 0x69#8
/-- Device status byte "command error"; no rule of MUF reads it. -/
abbrev Config.errcCmd : Byte := 0x63#8
/-- Device status byte "baud error"; no rule of MUF reads it. -/
abbrev Config.errcBaud : Byte := 0x62#8

/-! HEX text (R6, R83, R110). -/

abbrev Config.hexMark : Byte := 0x3A#8
abbrev Config.charCr : Byte := 0x0D#8
abbrev Config.charLf : Byte := 0x0A#8
/-- R6: LEN_MAX, the largest record byte count. -/
abbrev Config.lenMax : Nat := 255
/-- R6: HEX_OVERHEAD, "fixed 5-byte overhead (length, 2-byte offset, type, checksum)". -/
abbrev Config.hexOverhead : Nat := 5
/-- R7: LINE_MAX, the longest line HRV must hold: mark + 2 x (5 + 255) hex digits. -/
abbrev Config.lineMax : Nat := 521
/-- R21: REC_PAY has the indices 0 to 254. -/
abbrev Config.recPaySize : Nat := 255

/-! Widths (R6), in bits.  The types of Word.lean have these widths (`Laws.word_has_param_width` and its fellows). -/

/-- R6: W_PARAM, every command parameter (rate, address, length, size). -/
abbrev Config.wParam : Nat := 32
/-- R6: W_OFFSET, a record's offset. -/
abbrev Config.wOffset : Nat := 16
/-- R6: W_ABASE, AddressBase. -/
abbrev Config.wAbase : Nat := 32

/-! The session (R6). -/

abbrev Config.baudDefault : Word := 9600#32
/-- R6, R159: 8 data bits, no parity, 1 stop bit. -/
def Config.lineFormat : LineFormat := { dataBits := 8, parity := .none, stopBits := 1 }
/-- R6: T_WIN, the fixed receive-timeout window, in milliseconds. -/
abbrev Config.windowMs : Nat := 10

/-! The two parameters R7 leaves open. -/

/-- One less than WIN_TICKS, which R7 makes "a positive integer". -/
opaque Config.winTicksPred : Nat

/-- R7: WIN_TICKS, the number of `clk` periods in T_WIN. OPEN; "no rule depends on its value". -/
def Config.winTicks : Nat := Config.winTicksPred + 1

/-- R7: TP_HAS_TIMEOUT, whether TP ever raises `rx_tmo` during a blocking read. OPEN (decision D8). -/
opaque Config.tpHasTimeout : Bool

/-! Free values: what the record registers hold after a failed decode (R21, U6: "`any value`").
The first argument counts the failed decodes. -/

opaque Config.freeRecLen : Nat → Byte
opaque Config.freeRecOff : Nat → Half
opaque Config.freeRecType : Nat → Byte
opaque Config.freeRecPay : Nat → Nat → Byte
opaque Config.freeRecCks : Nat → Byte

end Sys2Proof
end

