-- ==== Sys2Proof/Syntax.lean ====
section
/-! DEFINITION. The instructions of MUF: one constructor per row of spec/opcode_table.json.
R1 gives the instruction set three layers (HEX record types, wire opcodes, host operations); the table adds the
responses of the device and the HEX line itself.  An operand that reaches MUF as a byte stream (a payload, a
readback, a status byte after 0x45) is no operand here: it stays in the stream (R60). -/

namespace Sys2Proof

/-- A decoded HEX line (10_state.md R21): length, offset, raw type byte, payload, checksum. -/
structure HexRecord where
  len : Byte
  off : Half
  type : Byte
  payload : List Byte
  cks : Byte
  deriving DecidableEq, Repr

/-- The sub-causes of a MalformedRecord (10_state.md R31: ST_SUB). -/
inductive MalSub where
  | mark
  | length
  | checksum
  | digit
  | payloadLen
  deriving DecidableEq, Repr

/-- The instructions, in the order of the opcode table. -/
inductive Instr where
  -- wire opcodes: command frames MUF sends (R87)
  | opSync
  | opCr
  | opBaud (rate : Word)
  | opLoad (address length : Word)
  | opVfy (address size : Word)
  | opRun (address : Word)
  -- responses: what MUF expects and reads at a point of an exchange (R88)
  | ackOk
  | ackEchoBaud
  | crSequence
  | errResponse
  | vfyReadback (size : Word)
  -- one Intel HEX text line (R81, R110)
  | hexrec (line : List Byte)
  -- record types, the TT field (R84)
  | hexData (offset : Half) (payload : List Byte)
  | hexEndOfFile (offset : Half) (payload : List Byte)
  | hexExtendedSegmentAddress (offset : Half) (payload : List Byte)
  | hexStartSegmentAddress (offset : Half) (payload : List Byte)
  | hexExtendedLinearAddress (offset : Half) (payload : List Byte)
  | hexStartLinearAddress (offset : Half) (payload : List Byte)
  | hexUnknown (type : Byte) (offset : Half) (payload : List Byte)
  -- host operations (R91)
  | hostOpen (rate : Word)
  | hostClose
  | hostConnect
  | cmdSync
  | cmdCr
  | cmdBaud (rate : Word)
  | cmdLoad (address length : Word)
  | cmdVfy (address size : Word)
  | cmdRun (vectorTableAddress : Word)
  | hexrun
  | reservedHostOp (code : Nibble)
  deriving DecidableEq, Repr

end Sys2Proof
end

