-- ==== Sys2Proof/Machine/State.lean ====
section
/-! DEFINITION. The state of MUF (10_state.md R20 to R38), what surrounds it (its ports and the environment behind
them, R36, R216, R220), what it has put out, the reasons a step can stop, and reset.  Plain data throughout. -/

namespace Sys2Proof.Machine

/-- R26: SESS. -/
inductive Sess where
  | closed
  | disconnected
  | connecting
  | idle
  | loading
  | verifying
  | settingBaud
  | running
  deriving DecidableEq, Repr

/-- R31: what ST_CAUSE holds. -/
inductive Cause where
  | ok
  | malformedRecord
  | truncatedFile
  | protocolError
  | timeout
  | deviceError
  | cancelled
  | refused
  deriving DecidableEq, Repr

/-- R200, R201, R203 to R205: an error with what it records.  The first two are HSR's and HRV's, the others CF's. -/
inductive Err where
  | malformedRecord (sub : MalSub)
  | truncatedFile
  | protocolError (expected actual : Byte)
  | timeoutWindow
  | timeoutBlocking
  | deviceError (code : Byte)
  deriving DecidableEq, Repr

/-- R209: what an operation completes with. -/
inductive Status where
  | ok
  | error (e : Err)
  | cancelled
  | refused (code : Nibble)
  deriving DecidableEq, Repr

/-- The statements of the pseudocode of 41, 42 and 43 that are no instruction of the opcode table. -/
inductive Micro where
  -- `Send(b)` of a parameter byte (R150)
  | send (b : Byte)
  -- `SleepWin()`: load the window timer; then the window elapses (R154)
  | sleep
  | window
  -- the poll of `RT(mandatory)` (R155)
  | poll (mandatory : Bool)
  -- `SendPayload(n)`: CNT <- 0; take the next payload byte; send it (R160)
  | cntZero
  | payload (n : Word)
  | sendPay (b : Byte)
  -- the readback loop of cmd_vfy: read a byte; hand it to the host (R178)
  | readback (n : Word)
  | handRb (b : Byte)
  -- `RD2 <- ReadN(2)` and the two comparisons of `CrTail` (R161)
  | readLf
  | readPrompt
  | expectPair
  -- `TpOpen`, `TpClose` (R159), `BAUD_CUR <- rate`, `LAST_CMD_V <- 0`, `SESS <- x`
  | tpOpen (rate : Word)
  | tpClose
  | setBaud (rate : Word)
  | clearLast
  | setSess (x : Sess)
  -- the top of connect's loop (R173)
  | connectTop
  -- `complete(OK)`, and the hold until the host takes the report (R209, R243)
  | completeOk
  | report
  -- `NextLine()` (R131), the test of EOF_SEEN (R130), `Yield(rec)` (R140)
  | lineStart
  | nextChar
  | eofTest
  | yield
  deriving DecidableEq, Repr

/-- One statement of the sequencer: an instruction of the opcode table, the decode of the line HRV holds, the action
of the record it decoded, or one of the statements of `Micro`. -/
inductive Stmt where
  | run (i : Instr)
  | decodeLine
  | act
  | micro (m : Micro)
  deriving DecidableEq, Repr

/-- One operation request at the host port (R220: `cmd_op`, `cmd_arg0`, `cmd_arg1`). -/
structure Request where
  op : Nibble
  arg0 : Word
  arg1 : Word
  deriving DecidableEq, Repr

/-- One hand-shake of the HEX input (R220): a character, or the end-of-input mark, which carries none. -/
inductive HexItem where
  | char (c : Byte)
  | eos
  deriving DecidableEq, Repr

/-- What the environment may do between two steps of MUF (R20, R71, R213, R220), and the reset input (R230). -/
inductive EnvAct where
  | reset
  | offerOp (r : Request)
  | setAbort (level : Bool)
  | setTxReady (level : Bool)
  | rxByte (b : Byte)
  | rxTimeout
  -- TP acknowledges an open or a close request; its receive queue then holds `queue` (U9: any content)
  | tpAck (queue : List Byte)
  | offerPayload (b : Byte)
  | offerHex (x : HexItem)
  -- the host drops what it offered and MUF has not taken (R143)
  | dropHex
  | dropPayload
  | setRbReady (level : Bool)
  | setRecReady (level : Bool)
  | setDoneReady (level : Bool)
  deriving DecidableEq, Repr

/-- Whose turn the next step is. -/
inductive Turn where
  | muf
  | env (a : EnvAct)
  deriving DecidableEq, Repr

/-- The environment's side of the ports, as hand-shakes (decision D1), and what it will do (`script`, in order; where
the script ends, MUF has every turn).  No MUF state (R20, R36): every value of it is the environment's choice. -/
structure Env where
  script : List Turn
  reqs : List Request
  abort : Bool
  txReady : Bool
  rx : List Byte
  rxTmo : Bool
  tpAcks : List (List Byte)
  pl : List Byte
  hx : List HexItem
  rbReady : Bool
  recReady : Bool
  doneReady : Bool
  deriving DecidableEq, Repr

/-- What MUF hands to TP, in order: a byte (R150), an open request with its rate and line format, a close request
(R159, R216). -/
inductive TpOut where
  | tx (b : Byte)
  | openReq (rate : Word) (format : LineFormat)
  | closeReq
  deriving DecidableEq, Repr

/-- R140: the 2-bit kind of a yielded record. -/
inductive RecKind where
  | passThrough
  | write
  | execute
  | baseUpdate
  deriving DecidableEq, Repr

/-- A completion report: the values of the status registers (R209, R220). -/
structure Report where
  cause : Cause
  sub : BitVec 3
  exp : Byte
  act : Byte
  code : Byte
  op : Nibble
  deriving DecidableEq, Repr

/-- What MUF has put out (R243: a run's outcome), each in order. -/
structure Outputs where
  tp : List TpOut
  readback : List Byte
  records : List (RecKind × HexRecord)
  reports : List Report
  deriving DecidableEq, Repr

/-- The payload buffer REC_PAY (R60, R64), MUF's only memory: cells with rising indices, none holding 0, since an
unlisted index reads as 0. -/
abbrev Memory := List Host.Cell

/-- The state of the machine. -/
structure State where
  -- record registers (R21)
  recLen : Byte
  recOff : Half
  recType : Byte
  recPay : Memory
  recCks : Byte
  -- HRV working state (R22): CKS_ACC, the line buffer and its overflow flag
  cksAcc : Byte
  lineBuf : List Byte
  lineOvf : Bool
  -- HSR (R23, R33)
  abase : Word
  hsActive : Bool
  eofSeen : Bool
  -- CF: parameters and working registers (R24, R25); RD2 is two bytes
  p0 : Word
  p1 : Word
  cnt : Word
  rtByte : Byte
  rd2Lf : Byte
  rd2Prompt : Byte
  -- CF: the session (R26, R29, R30)
  sess : Sess
  baudCur : Word
  lastCmd : Byte
  lastCmdV : Bool
  -- the sequencer (R27): BUSY, OP_CUR, and STEP as the statements still to run
  busy : Bool
  opCur : Nibble
  prog : List Stmt
  -- status registers (R31), ANY_FAULT (R32)
  stCause : Cause
  stSub : BitVec 3
  stExp : Byte
  stAct : Byte
  stCode : Byte
  stOp : Nibble
  anyFault : Bool
  -- the window timer (R34)
  winCnt : Nat
  -- the model's own: how many failed decodes have left the record registers with free values (U6)
  freeCtr : Nat
  env : Env
  out : Outputs
  deriving DecidableEq, Repr

/-- The model's faults. No rule of the spec raises one; both stop on states that no run reaches. -/
inductive Fault where
  /-- Raised by `step` when BUSY is 1 and the sequencer holds no statement (R27: STEP never leaves an operation's
  statement list). Safe: the model stops. -/
  | noStatement
  /-- Raised by SendPayload of a wired cmd_load when CNT is beyond REC_PAY[254] (R21). Safe: the model stops. -/
  | payloadIndex (index : Nat)
  deriving DecidableEq, Repr

/-- The model's refusals. -/
inductive Refusal where
  /-- Raised by an arm of `exec` that has no meaning yet (none is left). Safe: the model stops. -/
  | notModelled (mnemonic : String)
  deriving DecidableEq, Repr

/-- An environment that offers nothing and takes whatever MUF hands over. -/
def Env.quiet : Env :=
  { script := [], reqs := [], abort := false, txReady := true, rx := [], rxTmo := false, tpAcks := [], pl := [],
    hx := [], rbReady := true, recReady := true, doneReady := true }

/-- Nothing put out yet. -/
def Outputs.empty : Outputs := { tp := [], readback := [], records := [], reports := [] }

/-- R38, R230: the machine after reset.  What the spec gives no reset value is the model's choice (DESIGN CHOICE,
notes/assumptions/1.md): the registers R38 calls unspecified are 0, and HRV's line buffer (R22) is empty with its
overflow flag 0. -/
def State.reset : State :=
  { recLen := 0#8, recOff := 0#16, recType := 0#8, recPay := [], recCks := 0#8,
    cksAcc := 0#8, lineBuf := [], lineOvf := false,
    abase := 0#32, hsActive := false, eofSeen := false,
    p0 := 0#32, p1 := 0#32, cnt := 0#32, rtByte := 0#8, rd2Lf := 0#8, rd2Prompt := 0#8,
    sess := .closed, baudCur := Config.baudDefault, lastCmd := 0#8, lastCmdV := false,
    busy := false, opCur := 0#4, prog := [],
    stCause := .ok, stSub := 0#3, stExp := 0#8, stAct := 0#8, stCode := 0#8, stOp := 0#4, anyFault := false,
    winCnt := 0, freeCtr := 0, env := Env.quiet, out := Outputs.empty }

end Sys2Proof.Machine
end

