-- ==== Sys2Proof/Machine/Flags.lean ====
section
/-! DEFINITION. The flags of 10_state.md R35 and the codes of the state and status registers and of the ports (R26, R31, R140, R216).  MUF has no
condition codes: no operation computes a carry, overflow, zero or sign. -/

namespace Sys2Proof.Machine

/-- R26: the SESS codes. -/
def Sess.code : Sess → BitVec 3
  | .closed => 0#3
  | .disconnected => 1#3
  | .connecting => 2#3
  | .idle => 3#3
  | .loading => 4#3
  | .verifying => 5#3
  | .settingBaud => 6#3
  | .running => 7#3

/-- R31: the ST_CAUSE codes. -/
def Cause.code : Cause → BitVec 3
  | .ok => 0#3
  | .malformedRecord => 1#3
  | .truncatedFile => 2#3
  | .protocolError => 3#3
  | .timeout => 4#3
  | .deviceError => 5#3
  | .cancelled => 6#3
  | .refused => 7#3

/-- R31: the ST_SUB codes of a MalformedRecord. -/
def malSubCode : MalSub → BitVec 3
  | .mark => 0#3
  | .length => 1#3
  | .checksum => 2#3
  | .digit => 3#3
  | .payloadLen => 4#3

/-- R140: the kind codes of a yielded record. -/
def RecKind.code : RecKind → BitVec 2
  | .passThrough => 0#2
  | .write => 1#2
  | .execute => 2#2
  | .baseUpdate => 3#2

/-- R216: the `tp_req` codes, 1 open and 2 close; a byte handed over is no request. -/
def TpOut.reqCode : TpOut → Option (BitVec 2)
  | .tx _ => none
  | .openReq _ _ => some 1#2
  | .closeReq => some 2#2

/-- R28: CONNECTED, a function of SESS and no state of its own. -/
def State.connected (s : State) : Bool :=
  match s.sess with
  | .idle => true
  | .loading => true
  | .verifying => true
  | .settingBaud => true
  | .closed => false
  | .disconnected => false
  | .connecting => false
  | .running => false

/-- R30: CF sends an opcode byte: `LAST_CMD <- op; LAST_CMD_V <- 1`. -/
def recordCmd (op : Byte) (s : State) : State := { s with lastCmd := op, lastCmdV := true }

/-- R171: `LAST_CMD_V <- 0`. -/
def clearLastCmd (s : State) : State := { s with lastCmdV := false }

/-- R32, R207: `ANY_FAULT <- 1`, sticky until reset. -/
def setFault (s : State) : State := { s with anyFault := true }

/-- R143, R207: `HS_ACTIVE <- 0`. -/
def releaseHex (s : State) : State := { s with hsActive := false }

/-- R134: `EOF_SEEN <- 1`. -/
def setEofSeen (s : State) : State := { s with eofSeen := true }

/-- R200: the cause of an error. -/
def Err.cause : Err → Cause
  | .malformedRecord _ => .malformedRecord
  | .truncatedFile => .truncatedFile
  | .protocolError _ _ => .protocolError
  | .timeoutWindow => .timeout
  | .timeoutBlocking => .timeout
  | .deviceError _ => .deviceError

/-- R207: whether CF raises it. -/
def Err.ofCf : Err → Bool
  | .malformedRecord _ => false
  | .truncatedFile => false
  | .protocolError _ _ => true
  | .timeoutWindow => true
  | .timeoutBlocking => true
  | .deviceError _ => true

/-- R31: ST_CAUSE of a status. -/
def Status.cause : Status → Cause
  | .ok => .ok
  | .error e => e.cause
  | .cancelled => .cancelled
  | .refused _ => .refused

/-- R31: ST_SUB of a status. -/
def Status.sub : Status → BitVec 3
  | .error (.malformedRecord m) => malSubCode m
  | .error .timeoutBlocking => 1#3
  | _ => 0#3

/-- R31: ST_EXP of a status. -/
def Status.exp : Status → Byte
  | .error (.protocolError e _) => e
  | _ => 0#8

/-- R31: ST_ACT of a status. -/
def Status.act : Status → Byte
  | .error (.protocolError _ a) => a
  | _ => 0#8

/-- R31: ST_CODE of a status: the raw status byte of a DeviceError, zext_8 of a refused operation code. -/
def Status.devCode : Status → Byte
  | .error (.deviceError c) => c
  | .refused op => op.zeroExtend 8
  | _ => 0#8

/-- R31, R209: the status registers take a status; ST_OP takes OP_CUR. -/
def writeStatus (st : Status) (s : State) : State :=
  { s with
    stCause := st.cause, stSub := st.sub, stExp := st.exp, stAct := st.act, stCode := st.devCode,
    stOp := s.opCur }

end Sys2Proof.Machine
end

