-- ==== Sys2Proof/WellFormed.lean ====
section
/-! DEFINITION. Which instruction terms the spec's encodings admit. -/

namespace Sys2Proof

/-- R131: a line is what NextLine returns, so it has a character and no 0x0A but its last character. -/
def lineWellFormed : List Byte → Bool
  | [] => false
  | [_] => true
  | c :: cs => c != Config.charLf && lineWellFormed cs

/-- R6, R21: a record's payload has at most LEN_MAX = 255 bytes. -/
def payloadWellFormed (payload : List Byte) : Bool :=
  decide (payload.length ≤ Config.lenMax)

/-- The checks an instruction's fields meet (R84, R91, R94, R131; the table's "LL must be"). -/
def Instr.wellFormed : Instr → Bool
  | .opSync => true
  | .opCr => true
  | .opBaud _ => true
  | .opLoad _ _ => true
  | .opVfy _ _ => true
  | .opRun _ => true
  | .ackOk => true
  | .ackEchoBaud => true
  | .crSequence => true
  | .errResponse => true
  | .vfyReadback _ => true
  | .hexrec line => lineWellFormed line
  | .hexData _ p => payloadWellFormed p
  | .hexEndOfFile _ p => payloadWellFormed p
  | .hexExtendedSegmentAddress _ p => payloadWellFormed p
  | .hexStartSegmentAddress _ p => payloadWellFormed p
  | .hexExtendedLinearAddress _ p => decide (p.length = 2)
  | .hexStartLinearAddress _ p => decide (p.length = 4)
  | .hexUnknown t _ p => decide (6 ≤ t.toNat) && payloadWellFormed p
  | .hostOpen _ => true
  | .hostClose => true
  | .hostConnect => true
  | .cmdSync => true
  | .cmdCr => true
  | .cmdBaud _ => true
  | .cmdLoad _ _ => true
  | .cmdVfy _ _ => true
  | .cmdRun _ => true
  | .hexrun => true
  | .reservedHostOp c => decide (10 ≤ c.toNat)

end Sys2Proof
end

