-- ==== Sys2Proof/Decode.lean ====
section
/-! DEFINITION. The decoders and encoders of MUF's encoded languages (30_encoding.md R80): the Intel HEX line with
its record types, the command frame, the responses, the host operation code.  The byte order helpers stand here too
(20_memory.md R65, R66).  Every decoder is total and rejects by name. -/

namespace Sys2Proof

/-! ## Byte order -/

/-- R65, R86: a 32-bit parameter as its four wire bytes, least significant first. -/
def le32 (v : Word) : List Byte :=
  [v.extractLsb' 0 8, v.extractLsb' 8 8, v.extractLsb' 16 8, v.extractLsb' 24 8]

/-- The 32-bit parameter whose wire bytes, least significant first, are `b0 b1 b2 b3` (R86). -/
def ofLe32 (b0 b1 b2 b3 : Byte) : Word := b3 ++ b2 ++ b1 ++ b0

/-- R66: a big-endian 16-bit field, high byte first. -/
def be16 (hi lo : Byte) : Half := hi ++ lo

/-- R138: `{REC_PAY[0], REC_PAY[1], REC_PAY[2], REC_PAY[3]}`. -/
def be32 (b3 b2 b1 b0 : Byte) : Word := b3 ++ b2 ++ b1 ++ b0

/-! ## HRV: the Intel HEX line (40_hex_record_decode.md) -/

/-- R110: a character of a line terminator, 0x0D or 0x0A. -/
def isTerminator (c : Byte) : Bool := c == Config.charCr || c == Config.charLf

/-- R110: the line without the 0x0D and 0x0A characters at its end, "as many as there are". -/
def stripTerminators : List Byte → List Byte
  | [] => []
  | c :: cs =>
    match stripTerminators cs with
    | [] => if isTerminator c then [] else [c]
    | r => c :: r

/-- R83: `val`, the value of a hex digit of either case; every other character has none. -/
def hexVal (c : Byte) : Option Nibble :=
  if 0x30 ≤ c.toNat ∧ c.toNat ≤ 0x39 then some (BitVec.ofNat 4 (c.toNat - 0x30))
  else if 0x41 ≤ c.toNat ∧ c.toNat ≤ 0x46 then some (BitVec.ofNat 4 (c.toNat - 0x41 + 10))
  else if 0x61 ≤ c.toNat ∧ c.toNat ≤ 0x66 then some (BitVec.ofNat 4 (c.toNat - 0x61 + 10))
  else none

/-- R83: a byte is two hex digits, high nibble first. -/
def hexByte (c0 c1 : Byte) : Option Byte :=
  match hexVal c0, hexVal c1 with
  | some h, some l => some (h ++ l)
  | _, _ => none

/-- R114: the bytes `B[j]` of a body, two characters each; none when a character is no hex digit or one is left over. -/
def pairBytes : List Byte → Option (List Byte)
  | [] => some []
  | [_] => none
  | c0 :: c1 :: cs =>
    match hexByte c0 c1, pairBytes cs with
    | some b, some bs => some (b :: bs)
    | _, _ => none

/-- The bytes of a line that passes the checks before the checksum, or the check it fails. -/
inductive LineBytes where
  | bytes (bs : List Byte)
  | malformed (sub : MalSub)
  deriving DecidableEq, Repr

/-- R110 to R114, R116: strip, mark, length (LL unreadable), digit (in LL), length (count), digit (elsewhere). -/
def lineBytes (line : List Byte) : LineBytes :=
  match stripTerminators line with
  | [] => .malformed .mark
  | m :: body =>
    if m = Config.hexMark then
      match body with
      | c0 :: c1 :: _ =>
        match hexByte c0 c1 with
        | none => .malformed .digit
        | some ll =>
          if body.length = 2 * (Config.hexOverhead + ll.toNat) then
            match pairBytes body with
            | none => .malformed .digit
            | some bs => .bytes bs
          else .malformed .length
      | _ => .malformed .length
    else .malformed .mark

/-- R115: the modulo-256 accumulator over the bytes of a line, from 0, carries out of bit 7 discarded. -/
def checksumAcc (bs : List Byte) : Byte := bs.foldl (fun acc b => acc + b) 0#8

/-- What `Decode(line)` answers: a record, or MalformedRecord with its sub-cause (R110). -/
inductive LineResult where
  | record (r : HexRecord)
  | malformed (sub : MalSub)
  deriving DecidableEq, Repr

/-- R114: length, offset (high byte first), type (the raw byte), payload, checksum, from the bytes of a line. -/
def parseRecord : List Byte → LineResult
  | ll :: oh :: ol :: tt :: rest =>
    .record
      { len := ll, off := be16 oh ol, type := tt, payload := rest.take ll.toNat, cks := rest.getD ll.toNat 0#8 }
  | _ => .malformed .length

/-- R110: `Decode(line)`, a pure function of the line (R117). -/
def decodeLine (line : List Byte) : LineResult :=
  match lineBytes line with
  | .malformed sub => .malformed sub
  | .bytes bs => if checksumAcc bs = 0#8 then parseRecord bs else .malformed .checksum

/-- R22, R115: what CKS_ACC holds when the decode of a line ends: cleared at its start, then the sum of the line's
bytes if the line comes as far as the checksum check. -/
def finalChecksumAcc (line : List Byte) : Byte :=
  match lineBytes line with
  | .malformed _ => 0#8
  | .bytes bs => checksumAcc bs

/-- R112, R22: HRV stores at most LINE_MAX characters; a later character that is no line terminator makes the line
longer than any valid line, and only that fact is kept.  The pair is the buffer and the overflow flag. -/
def storeChar (buf : List Byte) (ovf : Bool) (c : Byte) : List Byte × Bool :=
  if buf.length < Config.lineMax then (buf ++ [c], ovf)
  else (buf, ovf || !isTerminator c)

/-- The line HRV decodes from its buffer: after an overflow, the buffer and one more character that is no terminator,
which makes it too long as the whole line was (R112, R118). -/
def bufferedLine (buf : List Byte) (ovf : Bool) : List Byte :=
  if ovf then buf ++ [Config.hexMark] else buf

/-! ## HSR: the record types -/

/-- R84: the instruction of a record, by its TT field. -/
def recordInstr (type : Byte) (off : Half) (payload : List Byte) : Instr :=
  if type = 0x00#8 then .hexData off payload
  else if type = 0x01#8 then .hexEndOfFile off payload
  else if type = 0x02#8 then .hexExtendedSegmentAddress off payload
  else if type = 0x03#8 then .hexStartSegmentAddress off payload
  else if type = 0x04#8 then .hexExtendedLinearAddress off payload
  else if type = 0x05#8 then .hexStartLinearAddress off payload
  else .hexUnknown type off payload

/-! ## Host operations -/

/-- R91: the operation of a 4-bit code with its arguments; unused arguments are ignored. -/
def decodeHost (op : Nibble) (arg0 arg1 : Word) : Instr :=
  if op = 0x0#4 then .hostOpen arg0
  else if op = 0x1#4 then .hostClose
  else if op = 0x2#4 then .hostConnect
  else if op = 0x3#4 then .cmdSync
  else if op = 0x4#4 then .cmdCr
  else if op = 0x5#4 then .cmdBaud arg0
  else if op = 0x6#4 then .cmdLoad arg0 arg1
  else if op = 0x7#4 then .cmdVfy arg0 arg1
  else if op = 0x8#4 then .cmdRun arg0
  else if op = 0x9#4 then .hexrun
  else .reservedHostOp op

/-! ## The decoder of every space -/

/-- R80, R90: the points of an exchange at which a response is read, which select how it reads. -/
inductive RespPoint where
  | ackOk
  | ackEchoBaud
  | crSequence
  | readback (size : Word)
  deriving DecidableEq, Repr

/-- The encoded languages of R80.  The same byte means different things in different ones, so a decoder is told which. -/
inductive Space where
  | wire
  | response (at_ : RespPoint)
  | hexLine
  | record
  | host
  deriving DecidableEq, Repr

/-- Why a decoder rejects bytes. -/
inductive DecodeError where
  | truncated
  | notAWireOpcode (b : Byte)
  | unexpectedResponse (expected actual : Byte)
  | malformedRecord (sub : MalSub)
  | notAHostCode (b : Byte)
  deriving DecidableEq, Repr

/-- A decoder's answer: the instruction and the bytes after it, or why there is none. -/
inductive Decoded where
  | ok (i : Instr) (rest : List Byte)
  | error (e : DecodeError)
  deriving DecidableEq, Repr

/-- The bytes after `n` bytes that are not interpreted (a payload, a readback). -/
def skipRaw (n : Nat) (bytes : List Byte) : Option (List Byte) :=
  if n ≤ bytes.length then some (bytes.drop n) else none

/-- One 32-bit parameter and what follows it (R86). -/
def takeU32 : List Byte → Option (Word × List Byte)
  | b0 :: b1 :: b2 :: b3 :: rest => some (ofLe32 b0 b1 b2 b3, rest)
  | _ => none

/-- Formats F1, F2, F3 without the payload (R85): one parameter, or two. -/
def decodeF1 (mk : Word → Instr) (bytes : List Byte) : Decoded :=
  match takeU32 bytes with
  | some (v, rest) => .ok (mk v) rest
  | none => .error .truncated

def decodeF2 (mk : Word → Word → Instr) (bytes : List Byte) : Decoded :=
  match takeU32 bytes with
  | some (v, rest) => decodeF1 (mk v) rest
  | none => .error .truncated

/-- Format F3: two parameters and as many payload bytes as the second says (R85, R95). -/
def decodeF3 (mk : Word → Word → Instr) (bytes : List Byte) : Decoded :=
  match takeU32 bytes with
  | none => .error .truncated
  | some (v, rest) =>
    match takeU32 rest with
    | none => .error .truncated
    | some (n, rest') =>
      match skipRaw n.toNat rest' with
      | none => .error .truncated
      | some tail => .ok (mk v n) tail

/-- R87: a command frame, selected by its whole first byte. -/
def decodeWire : List Byte → Decoded
  | [] => .error .truncated
  | op :: rest =>
    if op = Config.opSync then .ok .opSync rest
    else if op = Config.opCr then .ok .opCr rest
    else if op = Config.opBaud then decodeF1 .opBaud rest
    else if op = Config.opLoad then decodeF3 .opLoad rest
    else if op = Config.opVfy then decodeF2 .opVfy rest
    else if op = Config.opRun then decodeF1 .opRun rest
    else .error (.notAWireOpcode op)

/-- R89, R95: the error response after its ERR_IND: one status byte, whatever it is; it is the stream's (R205). -/
def decodeErrResponse : List Byte → Decoded
  | [] => .error .truncated
  | _ :: rest => .ok .errResponse rest

/-- R155, R89: bytes whose first is read by a response-test: ERR_IND there begins the error response, and any other
byte is `next`'s to judge. -/
def decodeTest (next : Byte → List Byte → Decoded) : List Byte → Decoded
  | [] => .error .truncated
  | b :: rest => if b = Config.errInd then decodeErrResponse rest else next b rest

/-- R88: A1 with one expected value. -/
def decodeAck (expected : Byte) (i : Instr) : List Byte → Decoded :=
  decodeTest fun b rest => if b = expected then .ok i rest else .error (.unexpectedResponse expected b)

/-- R88, R161: A3, the CR sequence 0D 0A 3E, its first byte `b` read by a response-test: only after 0x0D are two more
bytes there, and both before either is compared. -/
def decodeCrSequence (b : Byte) (rest : List Byte) : Decoded :=
  if b = Config.opCr then
    match rest with
    | lf :: prompt :: tail =>
      if lf = Config.chLf then
        if prompt = Config.chPrompt then .ok .crSequence tail
        else .error (.unexpectedResponse Config.chPrompt prompt)
      else .error (.unexpectedResponse Config.chLf lf)
    | _ => .error .truncated
  else .error (.unexpectedResponse Config.opCr b)

/-- R88, R89: a response, at the point of the exchange it is read at.  ERR_IND is recognised only where a
response-test reads it: not among readback bytes, but at the byte after them (R178). -/
def decodeResponse (p : RespPoint) (bytes : List Byte) : Decoded :=
  match p with
  | .readback size =>
    match skipRaw size.toNat bytes with
    | none => .error .truncated
    | some tail => decodeAck Config.ackOk (.vfyReadback size) tail
  | .ackOk => decodeAck Config.ackOk .ackOk bytes
  | .ackEchoBaud => decodeAck Config.opBaud .ackEchoBaud bytes
  | .crSequence => decodeTest decodeCrSequence bytes

/-- R131: the next line of a character sequence: up to and including the next 0x0A, or all of it. -/
def takeLine : List Byte → List Byte × List Byte
  | [] => ([], [])
  | c :: cs =>
    if c = Config.charLf then ([c], cs)
    else (c :: (takeLine cs).1, (takeLine cs).2)

/-- R80: a host request as nine bytes of this model's own: the code in the low nibble of the first byte, then the two
arguments, least significant byte first. -/
def decodeHostBytes : List Byte → Decoded
  | [] => .error .truncated
  | b :: rest =>
    if b.toNat < 16 then decodeF2 (decodeHost (b.truncate 4)) rest
    else .error (.notAHostCode b)

/-- The decoder: total on any bytes of any space. -/
def decode (sp : Space) (bytes : List Byte) : Decoded :=
  match sp with
  | .wire => decodeWire bytes
  | .response p => decodeResponse p bytes
  | .hexLine =>
    match bytes with
    | [] => .error .truncated
    | _ :: _ => .ok (.hexrec (takeLine bytes).1) (takeLine bytes).2
  | .record =>
    match decodeLine bytes with
    | .record r => .ok (recordInstr r.type r.off r.payload) []
    | .malformed sub => .error (.malformedRecord sub)
  | .host => decodeHostBytes bytes

/-! ## The encoder -/

/-- The upper-case hex digit of a nibble (R83, R119). -/
def hexDigit (n : Nibble) : Byte :=
  if n.toNat < 10 then BitVec.ofNat 8 (n.toNat + 0x30) else BitVec.ofNat 8 (n.toNat - 10 + 0x41)

/-- The two hex digits of a byte, high nibble first. -/
def hexDigits (b : Byte) : List Byte := [hexDigit (b.extractLsb' 4 4), hexDigit (b.extractLsb' 0 4)]

/-- R119: the bytes of a record before its checksum. -/
def recordBytes (type : Byte) (off : Half) (payload : List Byte) : List Byte :=
  BitVec.ofNat 8 payload.length :: off.extractLsb' 8 8 :: off.extractLsb' 0 8 :: type :: payload

/-- R119: `cc`, the two's complement of the sum of the bytes before it. -/
def recordChecksum (type : Byte) (off : Half) (payload : List Byte) : Byte :=
  -checksumAcc (recordBytes type off payload)

/-- R119: `Encode(record)`, the canonical text line, in upper case and without a terminator. -/
def encodeLine (type : Byte) (off : Half) (payload : List Byte) : List Byte :=
  Config.hexMark ::
    (recordBytes type off payload ++ [recordChecksum type off payload]).flatMap hexDigits

/-- R91: a host request's nine bytes. -/
def encodeHost (op : Nibble) (arg0 arg1 : Word) : List Byte :=
  op.zeroExtend 8 :: (le32 arg0 ++ le32 arg1)

/-- R85: the bytes of a command frame before any payload; nothing for an instruction that is no wire opcode. -/
def frameHeader : Instr → List Byte
  | .opSync => [Config.opSync]
  | .opCr => [Config.opCr]
  | .opBaud rate => Config.opBaud :: le32 rate
  | .opLoad a n => Config.opLoad :: (le32 a ++ le32 n)
  | .opVfy a n => Config.opVfy :: (le32 a ++ le32 n)
  | .opRun a => Config.opRun :: le32 a
  | _ => []

/-- The space an instruction is encoded in. -/
def Instr.space : Instr → Space
  | .opSync => .wire
  | .opCr => .wire
  | .opBaud _ => .wire
  | .opLoad _ _ => .wire
  | .opVfy _ _ => .wire
  | .opRun _ => .wire
  | .ackOk => .response .ackOk
  | .ackEchoBaud => .response .ackEchoBaud
  | .crSequence => .response .crSequence
  | .errResponse => .response .ackOk
  | .vfyReadback n => .response (.readback n)
  | .hexrec _ => .hexLine
  | .hexData _ _ => .record
  | .hexEndOfFile _ _ => .record
  | .hexExtendedSegmentAddress _ _ => .record
  | .hexStartSegmentAddress _ _ => .record
  | .hexExtendedLinearAddress _ _ => .record
  | .hexStartLinearAddress _ _ => .record
  | .hexUnknown _ _ _ => .record
  | .hostOpen _ => .host
  | .hostClose => .host
  | .hostConnect => .host
  | .cmdSync => .host
  | .cmdCr => .host
  | .cmdBaud _ => .host
  | .cmdLoad _ _ => .host
  | .cmdVfy _ _ => .host
  | .cmdRun _ => .host
  | .hexrun => .host
  | .reservedHostOp _ => .host

/-- The bytes of an instruction.  Bytes that are a stream's and no operand (a payload, a readback, the status byte of an
error response) are written 0; arguments an operation does not use are written 0. -/
def encode : Instr → List Byte
  | .opSync => frameHeader .opSync
  | .opCr => frameHeader .opCr
  | .opBaud rate => frameHeader (.opBaud rate)
  | .opLoad a n => frameHeader (.opLoad a n) ++ List.replicate n.toNat 0#8
  | .opVfy a n => frameHeader (.opVfy a n)
  | .opRun a => frameHeader (.opRun a)
  | .ackOk => [Config.ackOk]
  | .ackEchoBaud => [Config.opBaud]
  | .crSequence => [Config.opCr, Config.chLf, Config.chPrompt]
  | .errResponse => [Config.errInd, 0#8]
  | .vfyReadback n => List.replicate n.toNat 0#8 ++ [Config.ackOk]
  | .hexrec line => line
  | .hexData off p => encodeLine 0x00#8 off p
  | .hexEndOfFile off p => encodeLine 0x01#8 off p
  | .hexExtendedSegmentAddress off p => encodeLine 0x02#8 off p
  | .hexStartSegmentAddress off p => encodeLine 0x03#8 off p
  | .hexExtendedLinearAddress off p => encodeLine 0x04#8 off p
  | .hexStartLinearAddress off p => encodeLine 0x05#8 off p
  | .hexUnknown t off p => encodeLine t off p
  | .hostOpen rate => encodeHost 0x0#4 rate 0#32
  | .hostClose => encodeHost 0x1#4 0#32 0#32
  | .hostConnect => encodeHost 0x2#4 0#32 0#32
  | .cmdSync => encodeHost 0x3#4 0#32 0#32
  | .cmdCr => encodeHost 0x4#4 0#32 0#32
  | .cmdBaud rate => encodeHost 0x5#4 rate 0#32
  | .cmdLoad a n => encodeHost 0x6#4 a n
  | .cmdVfy a n => encodeHost 0x7#4 a n
  | .cmdRun a => encodeHost 0x8#4 a 0#32
  | .hexrun => encodeHost 0x9#4 0#32 0#32
  | .reservedHostOp c => encodeHost c 0#32 0#32

/-! ## A word of the opcode table -/

/-- The bytes of `w`, the least significant first. -/
def tableBytes (n w : Nat) : List Byte :=
  (List.range n).map fun k => BitVec.ofNat 8 (w / 256 ^ k)

/-- The instruction of a decoder's answer. -/
def Decoded.instr? : Decoded → Option Instr
  | .ok i _ => some i
  | .error _ => none

/-- The first answer there is. -/
def firstSome : List (Option Instr) → Option Instr
  | [] => none
  | some i :: _ => some i
  | none :: rest => firstSome rest

/-- The instruction of one word of the opcode table.  The table's spaces overlap and a word does not say its space: a
HEX line is told by its mark; a 24-bit word is a response written as the table writes it, its first byte highest;
else the first space in the order host operation, wire opcode, response, reserved host code that reads it decides. -/
def decodeTableWord (nbits w : Nat) : Option Instr :=
  let n := (nbits + 7) / 8
  let bytes := tableBytes n w
  let padded := bytes ++ List.replicate 8 0#8
  if 11 ≤ n ∧ bytes.head? = some Config.hexMark then
    (decode .hexLine bytes).instr?
  else if n = 3 then
    (decode (.response .crSequence) bytes.reverse).instr?
  else if w < 10 then
    (decode .host padded).instr?
  else
    firstSome
      [ (decode .wire padded).instr?,
        (decode (.response .ackOk) padded).instr?,
        (decode .host padded).instr? ]

end Sys2Proof
end

