-- ==== Sys2Proof/Machine/Memory.lean ====
section
/-! DEFINITION. The payload buffer REC_PAY[0..254] (R21, R64): bytes by index, in one canonical form. -/

namespace Sys2Proof.Machine

/-- What an index that no entry lists reads as (notes/assumptions/2.md). -/
def Memory.unlisted : Byte := 0#8

/-- The cells after `lo`: indices strictly rising, below 255, and no cell holding what an unlisted index reads as. -/
def Memory.wfFrom : Nat → Memory → Bool
  | _, [] => true
  | lo, (a, v) :: m =>
    decide (lo ≤ a) && decide (a < Config.recPaySize) && v != Memory.unlisted && Memory.wfFrom (a + 1) m

/-- The canonical form holds. -/
def Memory.wf (m : Memory) : Bool := Memory.wfFrom 0 m

/-- REC_PAY[a]. -/
def Memory.read : Memory → Nat → Byte
  | [], _ => Memory.unlisted
  | (b, v) :: m, a => if a = b then v else Memory.read m a

/-- A cell put before others, left out where it would hold what an unlisted index reads as. -/
def Memory.cons (a : Nat) (v : Byte) (m : Memory) : Memory :=
  if v = Memory.unlisted then m else (a, v) :: m

/-- REC_PAY[a] <- v. -/
def Memory.write : Memory → Nat → Byte → Memory
  | [], a, v => Memory.cons a v []
  | (b, w) :: m, a, v =>
    if a < b then Memory.cons a v ((b, w) :: m)
    else if a = b then Memory.cons a v m
    else (b, w) :: Memory.write m a v

/-- R110: REC_PAY[i] <- B[4+i] for each payload byte, from index `i` up. -/
def Memory.writeBytes (m : Memory) (i : Nat) : List Byte → Memory
  | [] => m
  | v :: vs => Memory.writeBytes (Memory.write m i v) (i + 1) vs

/-- REC_PAY[i .. i+n-1]. -/
def Memory.readBytes (m : Memory) (i : Nat) : Nat → List Byte
  | 0 => []
  | n + 1 => Memory.read m i :: Memory.readBytes m (i + 1) n

end Sys2Proof.Machine
end

