-- ==== Sys2Proof/Machine/Operands.lean ====
section
/-! DEFINITION. The operand forms of MUF's operations: parameters on the wire, the write address of a Data record, the
record registers as a record, and the payload byte of either source. -/

namespace Sys2Proof.Machine

/-- R151: `SendU32LE(v)` as statements, least significant byte first. -/
def sendU32 (v : Word) : List Stmt := (le32 v).map fun b => .micro (.send b)

/-- R155: `RT(mandatory)` as statements: the window is slept in full, then one poll. -/
def responseTest (mandatory : Bool) : List Stmt :=
  [.micro .sleep, .micro .window, .micro (.poll mandatory)]

/-- R133: `ABASE +32 zext_32(REC_OFF)`. -/
def writeAddress (abase : Word) (off : Half) : Word := abase + off.zeroExtend 32

/-- R137: `{REC_PAY[0], REC_PAY[1], 0x0000}`. -/
def linearBase (b0 b1 : Byte) : Word := be16 b0 b1 ++ 0#16

/-- R140: the kind a record is yielded with. -/
def recKind (type : Byte) : RecKind :=
  if type = 0x00#8 then .write
  else if type = 0x04#8 then .baseUpdate
  else if type = 0x05#8 then .execute
  else .passThrough

/-- The payload of the record the registers hold: REC_PAY[0 .. REC_LEN-1]. -/
def recPayload (s : State) : List Byte := Memory.readBytes s.recPay 0 s.recLen.toNat

/-- R21: the record registers as a record. -/
def recordRegs (s : State) : HexRecord :=
  { len := s.recLen, off := s.recOff, type := s.recType, payload := recPayload s, cks := s.recCks }

/-- Where the next payload byte of a cmd_load comes from (R160). -/
inductive PayByte where
  | byte (b : Byte) (s : State)
  | notOffered
  | noIndex

/-- R160: payload byte CNT: from REC_PAY when HSR issued the cmd_load, else the next byte the host offers. -/
def payloadByte (s : State) : PayByte :=
  if s.hsActive then
    if s.cnt.toNat < Config.recPaySize then .byte (Memory.read s.recPay s.cnt.toNat) s
    else .noIndex
  else
    match s.env.pl with
    | [] => .notOffered
    | b :: rest => .byte b { s with env := { s.env with pl := rest } }

end Sys2Proof.Machine
end

