-- ==== Sys2Proof/Machine/Ops.lean ====
section
/-! DEFINITION. The operations MUF's instructions share: holds, the wire primitives of 42_wire_primitives.md, error
entry and completion (60_exceptions.md R207, R209), admission (43_commands.md R170), the wired loads and runs of HSR
(41_hex_stream.md R142), and the writing of the record registers. -/

namespace Sys2Proof.Machine

/-- What a meaning answers. -/
abbrev Answer := Host.Outcome State Fault Refusal

/-! ## The sequencer (R27) -/

/-- R27, R243: the step waits: `st` stays the statement to run, and nothing else changes. -/
def hold (st : Stmt) (s : State) : State := { s with prog := st :: s.prog }

/-- The statements `l` run next, before those still to run. -/
def push (l : List Stmt) (s : State) : State := { s with prog := l ++ s.prog }

/-- The statements `l` run next, and no others. -/
def jump (l : List Stmt) (s : State) : State := { s with prog := l }

def setSess (x : Sess) (s : State) : State := { s with sess := x }

/-! ## Completion and error entry -/

/-- The report of the status registers (R209: "offers the same values"). -/
def reportOf (s : State) : Report :=
  { cause := s.stCause, sub := s.stSub, exp := s.stExp, act := s.stAct, code := s.stCode, op := s.stOp }

/-- The host takes the completion report, and BUSY <- 0 (R209). -/
def takeReport (s : State) : State :=
  { s with busy := false, prog := [], out := { s.out with reports := s.out.reports ++ [reportOf s] } }

/-- R209, R243: the report is offered; until the host takes it the operation holds. -/
def offerReport (s : State) : State :=
  if s.env.doneReady then takeReport s else jump [.micro .report] s

/-- R209: `complete(status)`: the status registers, one report, BUSY <- 0. -/
def complete (st : Status) (s : State) : State := offerReport (writeStatus st s)

/-- R207: SESS after an error: one raised by CF sends a session that is not Closed to Disconnected; HSR's errors leave
SESS alone (R144). -/
def afterError (e : Err) (x : Sess) : Sess :=
  if e.ofCf then
    match x with
    | .closed => .closed
    | _ => .disconnected
  else x

def demote (e : Err) (s : State) : State := setSess (afterError e s.sess) s

/-- R207: error entry, `raise X(info)`.  There is no handler and no return from it (R210): the operation in flight ends
with a report, and the host's way back to Idle is `connect`. -/
def raise (e : Err) (s : State) : State := complete (.error e) (releaseHex (demote e (setFault s)))

/-- R157: `Expect(e, a)`. -/
def expect (e a : Byte) (s : State) : State :=
  if a = e then s else raise (.protocolError e a) s

/-! ## Wire primitives -/

/-- Something handed to TP. -/
def emit (o : TpOut) (s : State) : State := { s with out := { s.out with tp := s.out.tp ++ [o] } }

/-- R150: `Send(b)`: TP takes the byte; while it is not ready, `self` holds.  Then `andThen`. -/
def send (b : Byte) (self : Stmt) (andThen : State → State) (s : State) : State :=
  if s.env.txReady then andThen (emit (.tx b) s) else hold self s

/-- The start of a command frame: the opcode byte is sent and recorded in LAST_CMD (R30), and the statements `tail` of
its exchange follow (R158). -/
def sendOpcode (op : Byte) (self : Instr) (tail : List Stmt) (s : State) : State :=
  send op (.run self) (fun t => push tail (recordCmd op t)) s

/-- What a blocking read of one byte finds (R153). -/
inductive ReadByte where
  | byte (b : Byte) (s : State)
  | timedOut (s : State)
  | waiting

/-- R153: one byte of `ReadN(n)`: the oldest waiting byte, not screened; if none waits, `rx_tmo` ends the read when TP
has a timeout; else the read waits. -/
def readByte (s : State) : ReadByte :=
  match s.env.rx with
  | b :: rest => .byte b { s with env := { s.env with rx := rest } }
  | [] =>
    if s.env.rxTmo && Config.tpHasTimeout then .timedOut { s with env := { s.env with rxTmo := false } }
    else .waiting

/-- R153: read one byte and go on with `andThen`; raise Timeout(Blocking); or hold at `self`. -/
def readOne (self : Stmt) (andThen : Byte → State → State) (s : State) : State :=
  match readByte s with
  | .byte b t => andThen b t
  | .timedOut t => raise .timeoutBlocking t
  | .waiting => hold self s

/-- R159: TP acknowledges a request; what its receive queue then holds is the environment's (U9).  Until then, hold. -/
def tpRequest (o : TpOut) (self : Stmt) (s : State) : State :=
  match s.env.tpAcks with
  | [] => hold self s
  | q :: acks => emit o { s with env := { s.env with tpAcks := acks, rx := q } }

/-! ## Admission (R170) -/

/-- The host operations that are not reserved (R91). -/
inductive HostOp where
  | open_
  | close
  | connect
  | sync
  | cr
  | baud
  | load
  | vfy
  | run
  | hexrun
  deriving DecidableEq, Repr

/-- R91: the host operation codes. -/
def HostOp.code : HostOp → Nibble
  | .open_ => 0x0#4
  | .close => 0x1#4
  | .connect => 0x2#4
  | .sync => 0x3#4
  | .cr => 0x4#4
  | .baud => 0x5#4
  | .load => 0x6#4
  | .vfy => 0x7#4
  | .run => 0x8#4
  | .hexrun => 0x9#4

/-- R170: the admission table.  Its four columns are the states a request is judged in; in the others ("exist only
while BUSY == 1") only HEXRUN, which R130 admits in every SESS, would run (notes/assumptions/5.md). -/
def admits : HostOp → Sess → Bool
  | .open_, x => x == .closed
  | .close, x => x == .disconnected || x == .idle || x == .running
  | .connect, x => x == .disconnected
  | .sync, x => x == .idle
  | .cr, x => x == .idle
  | .baud, x => x == .idle
  | .load, x => x == .idle
  | .vfy, x => x == .idle
  | .run, x => x == .idle
  | .hexrun, _ => true

/-- R27, R170: an operation is taken: `OP_CUR <- op`, `BUSY <- 1`. -/
def latchOp (code : Nibble) (s : State) : State := { s with busy := true, opCur := code }

/-- R24: the parameters of an operation. -/
def loadP0 (v : Word) (s : State) : State := { s with p0 := v }
def loadP1 (v : Word) (s : State) : State := { s with p1 := v }

/-- R170: a refused operation completes at once with Refused and its code. -/
def refuse (code : Nibble) (s : State) : State := complete (.refused code) s

/-- R170: a host operation is taken, its parameters latched; the admission table decides whether it runs. -/
def hostOperation (op : HostOp) (latch run : State → State) (s : State) : State :=
  let t := latch (latchOp op.code s)
  if admits op s.sess then run t else refuse op.code t

/-! ## The bodies of cmd_load and cmd_run, which HSR's events share (R142) -/

/-- R177 after `SESS <- Loading`, up to `complete(OK)`. -/
def loadBody (address length : Word) : List Stmt :=
  [.run (.opLoad address length), .run .opCr, .micro (.setSess .idle)]

/-- R179 up to `complete(OK)`. -/
def runBody (address : Word) : List Stmt :=
  [.run (.opRun address), .micro (.setSess .running)]

/-- R142: an event HSR raises starts a CF operation inside the HEXRUN (BUSY and OP_CUR stay) if SESS admits it; else
the HEXRUN ends with Refused and that operation's code. -/
def wiredOperation (op : HostOp) (run : State → State) (s : State) : State :=
  if admits op s.sess then run s else complete (.refused op.code) (releaseHex s)

/-! ## The record registers -/

/-- R110: a successful decode writes the record registers; payload indices from `length` up keep their bytes. -/
def writeRecord (r : HexRecord) (s : State) : State :=
  { s with
    recLen := r.len, recOff := r.off, recType := r.type,
    recPay := Memory.writeBytes s.recPay 0 r.payload, recCks := r.cks }

/-- The free values of the 255 payload bytes after the failed decode number `k`. -/
@[irreducible] def freePayload (k : Nat) : List Byte := (List.range Config.recPaySize).map (Config.freeRecPay k)

/-- R21, U6: a failed decode leaves the record registers unspecified: each takes a free value. -/
def freeRecord (s : State) : State :=
  { s with
    recLen := Config.freeRecLen s.freeCtr, recOff := Config.freeRecOff s.freeCtr,
    recType := Config.freeRecType s.freeCtr,
    recPay := Memory.writeBytes s.recPay 0 (freePayload s.freeCtr),
    recCks := Config.freeRecCks s.freeCtr, freeCtr := s.freeCtr + 1 }

/-- R22: CKS_ACC after the decode of a line. -/
def setChecksumAcc (v : Byte) (s : State) : State := { s with cksAcc := v }

end Sys2Proof.Machine
end

