-- ==== Sys2Proof/Machine/HexRecords.lean ====
section
/-! DEFINITION. The HEX line and the record types (40_hex_record_decode.md, 41_hex_stream.md). -/

namespace Sys2Proof.Machine

/-- HEXREC (R110): `Decode(line)`: the record registers, or MalformedRecord. -/
def execHexrec (line : List Byte) (s : State) : Answer :=
  match decodeLine line with
  | .record r => .next (writeRecord r (setChecksumAcc (finalChecksumAcc line) s))
  | .malformed sub =>
    .next (raise (.malformedRecord sub) (freeRecord (setChecksumAcc (finalChecksumAcc line) s)))

/-- Data (R133, R142): write_data at `ABASE + offset`: a wired cmd_load of the payload, split nowhere. -/
def execHexData (offset : Half) (payload : List Byte) (s : State) : Answer :=
  let address := writeAddress s.abase offset
  let length := BitVec.ofNat 32 payload.length
  .next
    (wiredOperation .load
      (fun t => push (loadBody address length) (setSess .loading (loadP1 length (loadP0 address t)))) s)

/-- EndOfFile (R134): `EOF_SEEN <- 1`; length, offset and payload are not examined. -/
def execHexEndOfFile (_offset : Half) (_payload : List Byte) (s : State) : Answer := .next (setEofSeen s)

/-- ExtendedSegmentAddress (R135): no action; passed through. -/
def execHexExtendedSegmentAddress (_offset : Half) (_payload : List Byte) (s : State) : Answer := .next s

/-- StartSegmentAddress (R136): no action; passed through. -/
def execHexStartSegmentAddress (_offset : Half) (_payload : List Byte) (s : State) : Answer := .next s

/-- ExtendedLinearAddress (R137): a two-byte payload becomes the upper half of ABASE; any other raises. -/
def execHexExtendedLinearAddress (_offset : Half) (payload : List Byte) (s : State) : Answer :=
  match payload with
  | [b0, b1] => .next { s with abase := linearBase b0 b1 }
  | _ => .next (raise (.malformedRecord .payloadLen) s)

/-- StartLinearAddress (R138, R142): execute at the four payload bytes, big-endian: a wired cmd_run; any other payload
raises. -/
def execHexStartLinearAddress (_offset : Half) (payload : List Byte) (s : State) : Answer :=
  match payload with
  | [b0, b1, b2, b3] =>
    let address := be32 b0 b1 b2 b3
    .next (wiredOperation .run (fun t => push (runBody address) (loadP0 address t)) s)
  | _ => .next (raise (.malformedRecord .payloadLen) s)

/-- Unknown types 0x06 to 0xFF (R139): no action; passed through. -/
def execHexUnknown (_type : Byte) (_offset : Half) (_payload : List Byte) (s : State) : Answer := .next s

end Sys2Proof.Machine
end

