-- ==== Sys2Proof/Machine/Sequencer.lean ====
section
/-! DEFINITION. The statements of the pseudocode that are no instruction of the opcode table: one step each (R27).
Each is given the state in which the sequencer has moved past it; a wait puts it back (`hold`, R243). -/

namespace Sys2Proof.Machine

/-- R150: `Send(b)`. -/
def microSend (b : Byte) (s : State) : State := send b (.micro (.send b)) id s

/-- R154: `WIN_CNT <- WIN_TICKS`. -/
def microSleep (s : State) : State := { s with winCnt := Config.winTicks }

/-- R154: the window elapses in full: WIN_CNT is 0.  A model has no time, so this step always completes. -/
def microWindow (s : State) : State := { s with winCnt := 0 }

/-- R155: the poll of `RT(mandatory)`: silence raises Timeout(Window), or in connect goes back to the top of its loop;
else the oldest byte is taken and screened for ERR_IND, and only for it. -/
def microPoll (mandatory : Bool) (s : State) : State :=
  match s.env.rx with
  | [] => if mandatory then raise .timeoutWindow s else jump [.micro .connectTop] s
  | b :: rest =>
    let t := { s with env := { s.env with rx := rest }, rtByte := b }
    if b = Config.errInd then push [.run .errResponse] t else t

/-- R160: `CNT <- 0`. -/
def microCntZero (s : State) : State := { s with cnt := 0#32 }

/-- R160: the next payload byte, or the end of the payload. -/
def microPayload (n : Word) (s : State) : Answer :=
  if s.cnt = n then .next s
  else
    match payloadByte s with
    | .byte b t => .next (push [.micro (.sendPay b), .micro (.payload n)] t)
    | .notOffered => .next (hold (.micro (.payload n)) s)
    | .noIndex => .fault (.payloadIndex s.cnt.toNat)

/-- R160, R25: a payload byte is sent as it is, and counted. -/
def microSendPay (b : Byte) (s : State) : State :=
  send b (.micro (.sendPay b)) (fun t => { t with cnt := t.cnt + 1#32 }) s

/-- R178: the next readback byte, not screened, or the end of the readback. -/
def microReadback (n : Word) (s : State) : State :=
  if s.cnt = n then s
  else
    readOne (.micro (.readback n))
      (fun b t => push [.micro (.handRb b), .micro (.readback n)] { t with cnt := t.cnt + 1#32 }) s

/-- R178: the host takes a readback byte before the next is read. -/
def microHandRb (b : Byte) (s : State) : State :=
  if s.env.rbReady then { s with out := { s.out with readback := s.out.readback ++ [b] } }
  else hold (.micro (.handRb b)) s

/-- R161: RD2[0] of `ReadN(2)`.  DESIGN CHOICE (notes/assumptions/30.md): it is written when its byte is taken, so it
keeps that byte where the read of the second ends in Timeout(Blocking). -/
def microReadLf (s : State) : State := readOne (.micro .readLf) (fun b t => { t with rd2Lf := b }) s

/-- R161: RD2[1] of `ReadN(2)`. -/
def microReadPrompt (s : State) : State := readOne (.micro .readPrompt) (fun b t => { t with rd2Prompt := b }) s

/-- R161: `Expect(0x0A, RD2[0]); Expect(0x3E, RD2[1])`: the first mismatch in order is the one reported. -/
def microExpectPair (s : State) : State :=
  if s.rd2Lf = Config.chLf then expect Config.chPrompt s.rd2Prompt s else expect Config.chLf s.rd2Lf s

/-- R159: `TpOpen(rate)`, 8 data bits, no parity, 1 stop bit. -/
def microTpOpen (rate : Word) (s : State) : State :=
  tpRequest (.openReq rate Config.lineFormat) (.micro (.tpOpen rate)) s

/-- R159: `TpClose()`. -/
def microTpClose (s : State) : State := tpRequest .closeReq (.micro .tpClose) s

/-- R29: `BAUD_CUR <- rate`. -/
def microSetBaud (rate : Word) (s : State) : State := { s with baudCur := rate }

/-- R173: the top of connect's loop: `abort` is sampled here and nowhere else (R213); then the SYNC byte, a
response-test that may find silence, the CR sequence. -/
def microConnectTop (s : State) : State :=
  if s.env.abort then complete .cancelled (setSess .disconnected s)
  else
    jump
      (.run .opSync :: responseTest false ++ [.run .crSequence, .micro (.setSess .idle), .micro .completeOk]) s

/-- One record step of HEXRUN's loop (R130, R132). -/
def hexLoop : List Stmt :=
  [.micro .lineStart, .micro .nextChar, .decodeLine, .act, .micro .eofTest, .micro .yield]

/-- R131: NextLine begins a line. -/
def microLineStart (s : State) : State := { s with lineBuf := [], lineOvf := false }

/-- A character goes into the line buffer (R22, R112). -/
def storeLineChar (c : Byte) (s : State) : State :=
  { s with lineBuf := (storeChar s.lineBuf s.lineOvf c).1, lineOvf := (storeChar s.lineBuf s.lineOvf c).2 }

/-- R131: NextLine takes characters up to and including the next 0x0A.  End of input ends a line that has a character
and is then not taken; with none it raises TruncatedFile (R141). -/
def microNextChar (s : State) : State :=
  match s.env.hx with
  | [] => hold (.micro .nextChar) s
  | .char c :: rest =>
    let t := storeLineChar c { s with env := { s.env with hx := rest } }
    if c = Config.charLf then t else push [.micro .nextChar] t
  | .eos :: rest =>
    if s.lineBuf = [] then raise .truncatedFile { s with env := { s.env with hx := rest } } else s

/-- R130: `if EOF_SEEN then HS_ACTIVE <- 0; complete(OK)`. -/
def microEofTest (s : State) : State := if s.eofSeen then complete .ok (releaseHex s) else s

/-- R140: the record is offered until the host takes it; only then is the next line read (R132). -/
def microYield (s : State) : State :=
  if s.env.recReady then
    jump hexLoop { s with out := { s.out with records := s.out.records ++ [(recKind s.recType, recordRegs s)] } }
  else hold (.micro .yield) s

/-- One statement of the sequencer. -/
def execMicro (m : Micro) (s : State) : Answer :=
  match m with
  | .send b => .next (microSend b s)
  | .sleep => .next (microSleep s)
  | .window => .next (microWindow s)
  | .poll mandatory => .next (microPoll mandatory s)
  | .cntZero => .next (microCntZero s)
  | .payload n => microPayload n s
  | .sendPay b => .next (microSendPay b s)
  | .readback n => .next (microReadback n s)
  | .handRb b => .next (microHandRb b s)
  | .readLf => .next (microReadLf s)
  | .readPrompt => .next (microReadPrompt s)
  | .expectPair => .next (microExpectPair s)
  | .tpOpen rate => .next (microTpOpen rate s)
  | .tpClose => .next (microTpClose s)
  | .setBaud rate => .next (microSetBaud rate s)
  | .clearLast => .next (clearLastCmd s)
  | .setSess x => .next (setSess x s)
  | .connectTop => .next (microConnectTop s)
  | .completeOk => .next (complete .ok s)
  | .report => .next (offerReport s)
  | .lineStart => .next (microLineStart s)
  | .nextChar => .next (microNextChar s)
  | .eofTest => .next (microEofTest s)
  | .yield => .next (microYield s)

end Sys2Proof.Machine
end

