-- ==== Sys2Proof/Machine/HostOps.lean ====
section
/-! DEFINITION. The host operations (43_commands.md R170 to R179, 41_hex_stream.md R130): acceptance, the admission test,
and the operation's statements given to the sequencer. -/

namespace Sys2Proof.Machine

/-- `open(rate)` (R171). -/
def execHostOpen (rate : Word) (s : State) : Answer :=
  .next
    (hostOperation .open_ (loadP0 rate)
      (jump
        [.micro (.tpOpen rate), .micro (.setBaud rate), .micro .clearLast, .micro (.setSess .disconnected),
          .micro .completeOk]) s)

/-- `close()` (R172). -/
def execHostClose (s : State) : Answer :=
  .next (hostOperation .close id (jump [.micro .tpClose, .micro (.setSess .closed), .micro .completeOk]) s)

/-- `connect()` (R173): `SESS <- Connecting`, then its loop. -/
def execHostConnect (s : State) : Answer :=
  .next (hostOperation .connect id (fun t => jump [.micro .connectTop] (setSess .connecting t)) s)

/-- `cmd_sync()` (R174): the SYNC byte with no response-test after it, then CmdCr. -/
def execCmdSync (s : State) : Answer :=
  .next (hostOperation .sync id (jump [.run .opSync, .run .opCr, .micro .completeOk]) s)

/-- `cmd_cr()` (R175). -/
def execCmdCr (s : State) : Answer :=
  .next (hostOperation .cr id (jump [.run .opCr, .micro .completeOk]) s)

/-- `cmd_baud(rate)` (R176): the exchange, the reopen at the new rate, the whole exchange again, CmdCr. -/
def execCmdBaud (rate : Word) (s : State) : Answer :=
  .next
    (hostOperation .baud (loadP0 rate)
      (fun t =>
        jump
          [.run (.opBaud rate), .micro .tpClose, .micro (.tpOpen rate), .micro (.setBaud rate), .run (.opBaud rate),
            .run .opCr, .micro (.setSess .idle), .micro .completeOk]
          (setSess .settingBaud t)) s)

/-- `cmd_load(address, bytes)` (R177). -/
def execCmdLoad (address length : Word) (s : State) : Answer :=
  .next
    (hostOperation .load (fun t => loadP1 length (loadP0 address t))
      (fun t => jump (loadBody address length ++ [.micro .completeOk]) (setSess .loading t)) s)

/-- `cmd_vfy(address, size)` (R178). -/
def execCmdVfy (address size : Word) (s : State) : Answer :=
  .next
    (hostOperation .vfy (fun t => loadP1 size (loadP0 address t))
      (fun t =>
        jump [.run (.opVfy address size), .run .opCr, .micro (.setSess .idle), .micro .completeOk]
          (setSess .verifying t)) s)

/-- `cmd_run(vectorTableAddress)` (R179): SESS stays Idle until the last address byte has been handed to TP. -/
def execCmdRun (vectorTableAddress : Word) (s : State) : Answer :=
  .next
    (hostOperation .run (loadP0 vectorTableAddress)
      (jump (runBody vectorTableAddress ++ [.micro .completeOk])) s)

/-- HEXRUN (R130): `HS_ACTIVE <- 1; EOF_SEEN <- 0; ABASE <- 0`, then its loop. -/
def execHexrun (s : State) : Answer :=
  .next
    (hostOperation .hexrun id
      (fun t => jump hexLoop { t with hsActive := true, eofSeen := false, abase := 0#32 }) s)

/-- A reserved host operation code 0xA to 0xF (R94, R170): taken and refused in every SESS. -/
def execReservedHostOp (code : Nibble) (s : State) : Answer := .next (refuse code (latchOp code s))

end Sys2Proof.Machine
end

