-- ==== Sys2Proof/Machine/Response.lean ====
section
/-! DEFINITION. The responses (30_encoding.md R88 to R90), as what MUF does at the point of an exchange where the response
is expected: RT_BYTE holds the byte the response-test returned. -/

namespace Sys2Proof.Machine

/-- ACK_OK (R88, R90, R157): the byte of the last response-test is compared with 0x4B. -/
def execAckOk (s : State) : Answer := .next (expect Config.ackOk s.rtByte s)

/-- ACK_ECHO_BAUD (R90, R176): the byte of the last response-test is compared with the BAUD opcode. -/
def execAckEchoBaud (s : State) : Answer := .next (expect Config.opBaud s.rtByte s)

/-- CR_SEQUENCE (R161, `CrTail`): the byte of the last response-test is compared with 0x0D; only then are two more
bytes read, both before either is compared. -/
def execCrSequence (s : State) : Answer :=
  .next
    (if s.rtByte = Config.opCr then
      push [.micro .readLf, .micro .readPrompt, .micro .expectPair] s
    else expect Config.opCr s.rtByte s)

/-- ERR_RESPONSE (R89, R155, R205): after ERR_IND one more byte is read with the fixed-size read and becomes the code of
a DeviceError, whatever it is. -/
def execErrResponse (s : State) : Answer :=
  .next (readOne (.run .errResponse) (fun c t => raise (.deviceError c) t) s)

/-- VFY_READBACK (R178, R88: AV): `size` raw bytes handed to the host one by one, then a response-test whose byte is
compared with 0x4B. -/
def execVfyReadback (size : Word) (s : State) : Answer :=
  .next
    (push (.micro (.readback size) :: responseTest true ++ [.run .ackOk]) { s with cnt := 0#32 })

end Sys2Proof.Machine
end

