-- ==== Sys2Proof/Machine/Wire.lean ====
section
/-! DEFINITION. The wire opcodes (30_encoding.md R87): each sends its opcode byte, records it in LAST_CMD, and leaves the
rest of its exchange to the sequencer (42_wire_primitives.md R158; nothing is compared but a final response). -/

namespace Sys2Proof.Machine

/-- OP_SYNC, F0 (R173, R174): `Send(0x00)`.  connect follows it with a response-test, cmd_sync with none. -/
def execOpSync (s : State) : Answer := .next (sendOpcode Config.opSync .opSync [] s)

/-- OP_CR, F0 (R175, `CmdCr`): `Send(0x0D)`, a mandatory response-test, the CR sequence. -/
def execOpCr (s : State) : Answer :=
  .next (sendOpcode Config.opCr .opCr (responseTest true ++ [.run .crSequence]) s)

/-- OP_BAUD, F1 (R176): one exchange, `Dispatch(0x42, [rate], 0x42)`. -/
def execOpBaud (rate : Word) (s : State) : Answer :=
  .next
    (sendOpcode Config.opBaud (.opBaud rate)
      (responseTest true ++ sendU32 rate ++ responseTest true ++ [.run .ackEchoBaud]) s)

/-- OP_LOAD, F3 (R177): `Dispatch(0x4C, [address, length, payload], 0x4B)`. -/
def execOpLoad (address length : Word) (s : State) : Answer :=
  .next
    (sendOpcode Config.opLoad (.opLoad address length)
      (responseTest true ++ sendU32 address ++ responseTest true ++ sendU32 length ++ responseTest true
        ++ [.micro .cntZero, .micro (.payload length)] ++ responseTest true ++ [.run .ackOk]) s)

/-- OP_VFY, F2 (R178): `Dispatch(0x59, [address, size], None)`, then the readback and its acknowledgement. -/
def execOpVfy (address size : Word) (s : State) : Answer :=
  .next
    (sendOpcode Config.opVfy (.opVfy address size)
      (responseTest true ++ sendU32 address ++ responseTest true ++ sendU32 size ++ responseTest true
        ++ [.run (.vfyReadback size)]) s)

/-- OP_RUN, F1 (R179): the opcode, one response-test, the address; no further response is expected. -/
def execOpRun (address : Word) (s : State) : Answer :=
  .next (sendOpcode Config.opRun (.opRun address) (responseTest true ++ sendU32 address) s)

end Sys2Proof.Machine
end

