-- ==== Sys2Proof/Machine/Dispatch.lean ====
section
/-! DEFINITION. Which meaning each instruction has. -/

namespace Sys2Proof.Machine

def exec (i : Instr) (s : State) : Host.Outcome State Fault Refusal :=
  match i with
  | .opSync => Sys2Proof.Machine.execOpSync s
  | .opCr => Sys2Proof.Machine.execOpCr s
  | .opBaud rate => Sys2Proof.Machine.execOpBaud rate s
  | .opLoad address length => Sys2Proof.Machine.execOpLoad address length s
  | .opVfy address size => Sys2Proof.Machine.execOpVfy address size s
  | .opRun address => Sys2Proof.Machine.execOpRun address s
  | .ackOk => Sys2Proof.Machine.execAckOk s
  | .ackEchoBaud => Sys2Proof.Machine.execAckEchoBaud s
  | .crSequence => Sys2Proof.Machine.execCrSequence s
  | .errResponse => Sys2Proof.Machine.execErrResponse s
  | .vfyReadback size => Sys2Proof.Machine.execVfyReadback size s
  | .hexrec line => Sys2Proof.Machine.execHexrec line s
  | .hexData offset payload => Sys2Proof.Machine.execHexData offset payload s
  | .hexEndOfFile offset payload => Sys2Proof.Machine.execHexEndOfFile offset payload s
  | .hexExtendedSegmentAddress offset payload => Sys2Proof.Machine.execHexExtendedSegmentAddress offset payload s
  | .hexStartSegmentAddress offset payload => Sys2Proof.Machine.execHexStartSegmentAddress offset payload s
  | .hexExtendedLinearAddress offset payload => Sys2Proof.Machine.execHexExtendedLinearAddress offset payload s
  | .hexStartLinearAddress offset payload => Sys2Proof.Machine.execHexStartLinearAddress offset payload s
  | .hexUnknown type offset payload => Sys2Proof.Machine.execHexUnknown type offset payload s
  | .hostOpen rate => Sys2Proof.Machine.execHostOpen rate s
  | .hostClose => Sys2Proof.Machine.execHostClose s
  | .hostConnect => Sys2Proof.Machine.execHostConnect s
  | .cmdSync => Sys2Proof.Machine.execCmdSync s
  | .cmdCr => Sys2Proof.Machine.execCmdCr s
  | .cmdBaud rate => Sys2Proof.Machine.execCmdBaud rate s
  | .cmdLoad address length => Sys2Proof.Machine.execCmdLoad address length s
  | .cmdVfy address size => Sys2Proof.Machine.execCmdVfy address size s
  | .cmdRun vectorTableAddress => Sys2Proof.Machine.execCmdRun vectorTableAddress s
  | .hexrun => Sys2Proof.Machine.execHexrun s
  | .reservedHostOp code => Sys2Proof.Machine.execReservedHostOp code s

end Sys2Proof.Machine
end

