-- ==== Sys2Proof/Machine/Environment.lean ====
section
/-! DEFINITION. What the environment does at the ports (10_state.md R20, 60_exceptions.md R216, R220), and reset. -/

namespace Sys2Proof.Machine

/-- R230, R231: reset puts every register of MUF to its reset value and drops the operation in flight without a report;
it does not reach TP, the host or what MUF has already put out. -/
def resetMuf (s : State) : State :=
  { State.reset with freeCtr := s.freeCtr, env := s.env, out := s.out }

/-- One act of the environment: only the ports change, but for the reset input. -/
def envStep (a : EnvAct) (s : State) : State :=
  match a with
  | .reset => resetMuf s
  | .offerOp r => { s with env := { s.env with reqs := s.env.reqs ++ [r] } }
  | .setAbort level => { s with env := { s.env with abort := level } }
  | .setTxReady level => { s with env := { s.env with txReady := level } }
  | .rxByte b => { s with env := { s.env with rx := s.env.rx ++ [b] } }
  | .rxTimeout => { s with env := { s.env with rxTmo := true } }
  | .tpAck q => { s with env := { s.env with tpAcks := s.env.tpAcks ++ [q] } }
  | .offerPayload b => { s with env := { s.env with pl := s.env.pl ++ [b] } }
  | .offerHex x => { s with env := { s.env with hx := s.env.hx ++ [x] } }
  | .dropHex => { s with env := { s.env with hx := [] } }
  | .dropPayload => { s with env := { s.env with pl := [] } }
  | .setRbReady level => { s with env := { s.env with rbReady := level } }
  | .setRecReady level => { s with env := { s.env with recReady := level } }
  | .setDoneReady level => { s with env := { s.env with doneReady := level } }

end Sys2Proof.Machine
end

