-- ==== Sys2Proof/Machine/Fetch.lean ====
section
/-! DEFINITION. What the next step is: the environment's act, an instruction, another statement of the sequencer, or
nothing.  MUF fetches no instruction from memory (10_state.md R27): an instruction comes from the host port when BUSY is
0, else from the sequencer, the line buffer (a HEX line) or the record registers (a record's TT field). -/

namespace Sys2Proof.Machine

/-- R170: the request at the host port is taken and its arguments latched. -/
def takeRequest (q : Request) (rest : List Request) (s : State) : State :=
  { s with
    busy := true, opCur := q.op, p0 := q.arg0, p1 := q.arg1, env := { s.env with reqs := rest } }

/-- What the next step is, with the state it starts from. -/
inductive Fetched where
  | env (a : EnvAct) (s : State)
  | instr (i : Instr) (s : State)
  | micro (m : Micro) (s : State)
  | idle (s : State)
  | empty

/-- The instruction of the record the registers hold (R84, R132). -/
def recordInstrOf (s : State) : Instr := recordInstr s.recType s.recOff (recPayload s)

/-- The sequencer's next statement. -/
def fetchStmt (st : Stmt) (s : State) : Fetched :=
  match st with
  | .run i => .instr i s
  | .decodeLine => .instr (.hexrec (bufferedLine s.lineBuf s.lineOvf)) s
  | .act => .instr (recordInstrOf s) s
  | .micro m => .micro m s

/-- What MUF does on its turn: while BUSY, the operation in flight; else the next request of the host (R170, R233). -/
def fetchMuf (s : State) : Fetched :=
  if s.busy then
    match s.prog with
    | [] => .empty
    | st :: rest => fetchStmt st { s with prog := rest }
  else
    match s.env.reqs with
    | [] => .idle s
    | q :: rest => .instr (decodeHost q.op q.arg0 q.arg1) (takeRequest q rest s)

/-- The next turn is the script's, or MUF's where the script has ended. -/
def fetch (s : State) : Fetched :=
  match s.env.script with
  | [] => fetchMuf s
  | .muf :: rest => fetchMuf { s with env := { s.env with script := rest } }
  | .env a :: rest => .env a { s with env := { s.env with script := rest } }

/-- How a word of the opcode table comes to the place it is fetched from: a host operation as a request at the host
port of an idle MUF, with the word's low four bits as its code and arguments 0; any other instruction as the
sequencer's next statement.  MUF has the next turn. -/
def placeInstr (w : Nat) (i : Instr) (s : State) : State :=
  match i.space with
  | .host =>
    { s with
      busy := false, prog := [],
      env := { s.env with script := [], reqs := [{ op := BitVec.ofNat 4 w, arg0 := 0#32, arg1 := 0#32 }] } }
  | _ => { s with busy := true, prog := [.run i], env := { s.env with script := [] } }

end Sys2Proof.Machine
end

