-- ==== Sys2Proof/Machine/Step.lean ====
section
/-! DEFINITION. One step of the machine. -/

namespace Sys2Proof.Machine

/-- One step: an act of the environment, one instruction, or one statement of the sequencer (R20, R27). -/
def step (s : State) : Host.Outcome State Fault Refusal :=
  match fetch s with
  | .env a t => .next (envStep a t)
  | .instr i t => exec i t
  | .micro m t => execMicro m t
  | .idle t => .next t
  | .empty => .fault .noStatement

/-- `s` with the instruction of an opcode-table word where `step` fetches its next instruction. -/
def State.withFetchWord (s : State) (nbits w : Nat) : State :=
  match decodeTableWord nbits w with
  | none => s
  | some i => placeInstr w i s

end Sys2Proof.Machine
end

