-- ==== Sys2Proof/Safety.lean ====
section
/-! DEFINITION. What the claims about runs speak of: runs, the bytes sent, the session's legal states and transitions,
and the invariant of the machine. -/

namespace Sys2Proof.Machine

/-- A run of some number of steps leads from `s` to `t`. -/
def Reaches (s t : State) : Prop := ∃ k, Host.Core.run core k s = .next t

/-- MUF has every turn from `s` on (the environment has already offered what it will), TP takes every byte, and the
host takes every readback byte, record and report. -/
def State.attended (s : State) : Prop :=
  s.env.script = [] ∧ s.env.txReady = true ∧ s.env.rbReady = true ∧ s.env.recReady = true
    ∧ s.env.doneReady = true

/-- The bytes handed to TP, in order (R72). -/
def Outputs.sent (o : Outputs) : List Byte :=
  o.tp.filterMap fun x =>
    match x with
    | .tx b => some b
    | _ => none

/-- The bytes `bs`, each handed to TP. -/
def txAll (bs : List Byte) : List TpOut := bs.map .tx

/-- The report of an operation that completes with OK (R31). -/
def okReport (op : Nibble) : Report := { cause := .ok, sub := 0#3, exp := 0#8, act := 0#8, code := 0#8, op := op }

/-- R209: `s` after a completion with the values of `r`, once the host has taken the report. -/
def State.reported (s : State) (r : Report) : State :=
  { s with
    stCause := r.cause, stSub := r.sub, stExp := r.exp, stAct := r.act, stCode := r.code, stOp := r.op,
    busy := false, prog := [], out := { s.out with reports := s.out.reports ++ [r] } }

/-- R207: `s` after an error raised by CF with the values of `r`, once the host has taken the report. -/
def State.failed (s : State) (r : Report) : State :=
  State.reported
    { s with anyFault := true, hsActive := false, sess := if s.sess = .closed then .closed else .disconnected } r

/-- R207, R144: `s` after an error raised by HSR or HRV: SESS is left alone. -/
def State.fileFailed (s : State) (r : Report) : State :=
  State.reported { s with anyFault := true, hsActive := false } r

/-- R31, R203: the report of a ProtocolError. -/
def protocolReport (e a : Byte) (op : Nibble) : Report :=
  { cause := .protocolError, sub := 0#3, exp := e, act := a, code := 0#8, op := op }

/-- R31, R204: the report of a Timeout, Window (0) or Blocking (1). -/
def timeoutReport (sub : BitVec 3) (op : Nibble) : Report :=
  { cause := .timeout, sub := sub, exp := 0#8, act := 0#8, code := 0#8, op := op }

/-- R31, R205: the report of a DeviceError. -/
def deviceReport (c : Byte) (op : Nibble) : Report :=
  { cause := .deviceError, sub := 0#3, exp := 0#8, act := 0#8, code := c, op := op }

/-- R31, R201: the report of a MalformedRecord. -/
def malformedReport (sub : BitVec 3) (op : Nibble) : Report :=
  { cause := .malformedRecord, sub := sub, exp := 0#8, act := 0#8, code := 0#8, op := op }

/-- R31, R202: the report of a TruncatedFile. -/
def truncatedReport (op : Nibble) : Report :=
  { cause := .truncatedFile, sub := 0#3, exp := 0#8, act := 0#8, code := 0#8, op := op }

/-- R31, R213: the report of a cancelled connect. -/
def cancelledReport (op : Nibble) : Report :=
  { cause := .cancelled, sub := 0#3, exp := 0#8, act := 0#8, code := 0#8, op := op }

/-- R31, R170: the report of a refused operation. -/
def refusedReport (code op : Nibble) : Report :=
  { cause := .refused, sub := 0#3, exp := 0#8, act := 0#8, code := code.zeroExtend 8, op := op }

/-- R170: the states that admit a host operation, in the columns Closed, Disconnected, Idle, Running of the table. -/
def admissionRow : Nibble → Bool × Bool × Bool × Bool
  | 0x0#4 => (true, false, false, false)
  | 0x1#4 => (false, true, true, true)
  | 0x2#4 => (false, true, false, false)
  | 0x3#4 => (false, false, true, false)
  | 0x4#4 => (false, false, true, false)
  | 0x5#4 => (false, false, true, false)
  | 0x6#4 => (false, false, true, false)
  | 0x7#4 => (false, false, true, false)
  | 0x8#4 => (false, false, true, false)
  | 0x9#4 => (true, true, true, true)
  | _ => (false, false, false, false)

/-- R170: the table's entry for a state it has a column for. -/
def tableAdmits (code : Nibble) : Sess → Bool
  | .closed => (admissionRow code).1
  | .disconnected => (admissionRow code).2.1
  | .idle => (admissionRow code).2.2.1
  | .running => (admissionRow code).2.2.2
  | _ => false

/-- R170: the states a request is judged in; the others "exist only while BUSY == 1". -/
def Sess.resting : Sess → Bool
  | .closed => true
  | .disconnected => true
  | .idle => true
  | .running => true
  | .connecting => false
  | .loading => false
  | .verifying => false
  | .settingBaud => false

/-- The states in which CF exchanges bytes with the device: every one but Closed, Disconnected and Running (R181). -/
def Sess.exchanging : Sess → Bool
  | .connecting => true
  | .idle => true
  | .loading => true
  | .verifying => true
  | .settingBaud => true
  | .closed => false
  | .disconnected => false
  | .running => false

/-- R180: the transitions of SESS other than reset, one arm per source state. -/
def sessEdge : Sess → Sess → Bool
  | .closed, y => y == .disconnected
  | .disconnected, y => y == .connecting || y == .closed
  | .connecting, y => y == .idle || y == .disconnected
  | .idle, y =>
    y == .loading || y == .verifying || y == .settingBaud || y == .running || y == .disconnected || y == .closed
  | .loading, y => y == .idle || y == .disconnected
  | .verifying, y => y == .idle || y == .disconnected
  | .settingBaud, y => y == .idle || y == .disconnected
  | .running, y => y == .closed

/-- R87: the six bytes CF sends as the first byte of a frame. -/
def isOpcode (b : Byte) : Bool :=
  b == Config.opSync || b == Config.opCr || b == Config.opBaud || b == Config.opLoad || b == Config.opVfy
    || b == Config.opRun

/-- The instructions of an exchange with the device: the wire opcodes and the responses. -/
def ofExchange : Instr → Bool
  | .opSync => true
  | .opCr => true
  | .opBaud _ => true
  | .opLoad _ _ => true
  | .opVfy _ _ => true
  | .opRun _ => true
  | .ackOk => true
  | .ackEchoBaud => true
  | .crSequence => true
  | .errResponse => true
  | .vfyReadback _ => true
  | .hexrec _ => false
  | .hexData _ _ => false
  | .hexEndOfFile _ _ => false
  | .hexExtendedSegmentAddress _ _ => false
  | .hexStartSegmentAddress _ _ => false
  | .hexExtendedLinearAddress _ _ => false
  | .hexStartLinearAddress _ _ => false
  | .hexUnknown _ _ _ => false
  | .hostOpen _ => false
  | .hostClose => false
  | .hostConnect => false
  | .cmdSync => false
  | .cmdCr => false
  | .cmdBaud _ => false
  | .cmdLoad _ _ => false
  | .cmdVfy _ _ => false
  | .cmdRun _ => false
  | .hexrun => false
  | .reservedHostOp _ => false

/-- A load that HSR started has at most 255 payload bytes (R21). -/
def loadFits (hs : Bool) : Instr → Bool
  | .opLoad _ n => !hs || decide (n.toNat ≤ Config.recPaySize)
  | _ => true

/-- R155: nothing follows ERR_RESPONSE in its operation. -/
def alwaysRaises : Instr → Bool
  | .errResponse => true
  | _ => false

/-- Which instructions the sequencer holds: those of an exchange, which is possible only in a session that exchanges
bytes. -/
def seqInstrOk (hs : Bool) (x : Sess) (i : Instr) : Bool := x.exchanging && (ofExchange i && loadFits hs i)

/-- The statements still to run are those of an operation of the spec: followed with SESS `x`, with CNT where it is
known, and with `hs` for HS_ACTIVE, they take only transitions of R180, exchange bytes only in a session that does, stay
inside REC_PAY, and end in a completion in a state a request is judged in. -/
def wellSequenced (hs : Bool) : Option Word → Sess → List Stmt → Bool
  | _, _, [] => false
  | _, x, .run i :: r => seqInstrOk hs x i && (alwaysRaises i || wellSequenced hs none x r)
  | c, x, .decodeLine :: r => hs && x.resting && wellSequenced hs c x r
  | _, x, .act :: r => hs && x.resting && decide (r = [.micro .eofTest, .micro .yield])
  | c, x, .micro m :: r =>
    match m with
    | .send _ => x.exchanging && wellSequenced hs c x r
    | .sleep => wellSequenced hs c x r
    | .window => wellSequenced hs c x r
    | .poll mandatory => x.exchanging && (mandatory || (!hs && x == .connecting)) && wellSequenced hs c x r
    | .cntZero => wellSequenced hs (some 0#32) x r
    | .payload n =>
      x.exchanging && (!hs || (decide (n.toNat ≤ Config.recPaySize)
        && (match c with
            | some v => decide (v.toNat ≤ n.toNat)
            | none => false)))
        && wellSequenced hs none x r
    | .sendPay _ => x.exchanging && wellSequenced hs (c.map (· + 1#32)) x r
    | .readback _ => x.exchanging && wellSequenced hs none x r
    | .handRb _ => x.exchanging && wellSequenced hs c x r
    | .readLf => x.exchanging && wellSequenced hs c x r
    | .readPrompt => x.exchanging && wellSequenced hs c x r
    | .expectPair => x.exchanging && wellSequenced hs c x r
    | .tpOpen _ => wellSequenced hs c x r
    | .tpClose => wellSequenced hs c x r
    | .setBaud _ => wellSequenced hs c x r
    | .clearLast => wellSequenced hs c x r
    | .setSess y => sessEdge x y && wellSequenced hs c y r
    | .connectTop => !hs && x == .connecting
    | .completeOk => !hs && x.resting
    | .report => !hs && x.resting
    | .lineStart => hs && x.resting && wellSequenced hs c x r
    | .nextChar => hs && x.resting && wellSequenced hs c x r
    | .eofTest => hs && x.resting && wellSequenced hs c x r
    | .yield => hs && x.resting

/-- The statements that only some operations have: `BAUD_CUR <- rate` and the request to open TP are of open and cmd_baud,
with P[0] as the rate (R29, R171, R176); the request to close TP is of close and cmd_baud; `LAST_CMD_V <- 0` is of
open (R30). -/
def ownStmt (op : Nibble) (p0 : Word) : Stmt → Bool
  | .micro (.setBaud rate) => (op == 0x0#4 || op == 0x5#4) && rate == p0
  | .micro (.tpOpen rate) => (op == 0x0#4 || op == 0x5#4) && rate == p0
  | .micro .tpClose => op == 0x1#4 || op == 0x5#4
  | .micro .clearLast => op == 0x0#4
  | _ => true

/-- The invariant of the machine. -/
structure State.Inv (s : State) : Prop where
  /-- REC_PAY is in its canonical form (R21: indices 0 to 254). -/
  recPay : Memory.wf s.recPay = true
  /-- R23: "Bits 15:0 of ABASE are always 0". -/
  abase : s.abase.extractLsb' 0 16 = 0#16
  /-- R22: the line buffer holds at most 521 characters. -/
  lineBuf : s.lineBuf.length ≤ Config.lineMax
  /-- R33, R142: a HEXRUN in progress is the operation in flight. -/
  hex : s.hsActive = true → s.busy = true ∧ s.opCur = 0x9#4
  /-- R27, R170: with BUSY 0 there is no statement, and SESS is a state a request is judged in. -/
  rest : s.busy = false → s.prog = [] ∧ s.sess.resting = true
  /-- R27: with BUSY 1 the statements are those of an operation. -/
  seq : s.busy = true → wellSequenced s.hsActive (some s.cnt) s.sess s.prog = true
  /-- R27, R29, R30: each statement is one the operation in flight has. -/
  own : s.busy = true → s.prog.all (ownStmt s.opCur s.p0) = true
  /-- R30, R87: LAST_CMD, when valid, is one of the six wire opcodes. -/
  lastCmd : s.lastCmdV = true → isOpcode s.lastCmd = true
  /-- R34: the window timer counts down from WIN_TICKS. -/
  winCnt : s.winCnt ≤ Config.winTicks

/-- R31, R32: the status registers hold the values of some completion, and an error leaves ANY_FAULT set. -/
structure State.StatusLegal (s : State) : Prop where
  status : ∃ st : Status,
    s.stCause = st.cause ∧ s.stSub = st.sub ∧ s.stExp = st.exp ∧ s.stAct = st.act ∧ s.stCode = st.devCode
  fault : s.stCause = .ok ∨ s.stCause = .cancelled ∨ s.stCause = .refused ∨ s.anyFault = true

/-- R38: what the spec says every register holds after reset (those it calls unspecified are left out). -/
structure State.HasResetValues (s : State) : Prop where
  abase : s.abase = 0#32
  baudCur : s.baudCur = 9600#32
  sess : s.sess = .closed
  connected : s.connected = false
  busy : s.busy = false
  hsr : s.hsActive = false ∧ s.eofSeen = false
  lastCmdV : s.lastCmdV = false
  status : s.stCause = .ok ∧ s.stSub = 0#3 ∧ s.stExp = 0#8 ∧ s.stAct = 0#8 ∧ s.stCode = 0#8 ∧ s.stOp = 0#4
  anyFault : s.anyFault = false
  work : s.cksAcc = 0#8 ∧ s.winCnt = 0

end Sys2Proof.Machine
end

