-- ==== Sys2Proof/Certificates/Slice0/Obligations.lean ====
section
/-! DEFINITION. The statements for the provers.  In the statements about runs, `attended` says that MUF has every turn and
that TP and the host take what MUF hands over; the bytes the device sends and the payload the host offers are any. -/

open Sys2Proof Sys2Proof.Machine

/-! ## Encodings -/

/-- 30_encoding.md R80 to R91: every well-formed instruction, written in its encoding and decoded in its space, is read
back whole.
The model's own choices in it: log entries 15, 16, 20. -/
def Obligations.DecodeOfEncodeIsTheInstruction : Prop :=
  ∀ i : Instr, i.wellFormed = true → decode i.space (encode i) = .ok i []

/-- R120: for every record of at most 255 payload bytes `Decode(Encode(r))` is `r` with its checksum; and a valid line
with a lower-case digit or a terminator is not what `Encode` writes for its record. -/
def Obligations.HexLineRoundTrip : Prop :=
  (∀ (type : Byte) (off : Half) (payload : List Byte), payload.length ≤ 255 →
    decodeLine (encodeLine type off payload)
      = .record
          { len := BitVec.ofNat 8 payload.length, off := off, type := type, payload := payload,
            cks := recordChecksum type off payload })
  ∧ ∀ line r, decodeLine line = .record r →
    (∃ c ∈ line, (0x61 ≤ c.toNat ∧ c.toNat ≤ 0x66) ∨ c = 0x0D#8 ∨ c = 0x0A#8) →
    encodeLine r.type r.off r.payload ≠ line

/-- R110 to R116: `Decode` of a line whose characters before its terminator are `s`: the first failing check decides, in
the order Mark, Length (LL unreadable), Digit (in LL), Length (count), Digit (elsewhere), Checksum; a line that passes
all gives the record of its bytes. -/
def Obligations.DecodeReportsTheFirstFailingCheck : Prop :=
  ∀ line s terminator : List Byte,
    line = s ++ terminator →
    (∀ c ∈ terminator, c = 0x0D#8 ∨ c = 0x0A#8) →
    s.getLast? ≠ some 0x0D#8 → s.getLast? ≠ some 0x0A#8 →
    (s.head? ≠ some 0x3A#8 → decodeLine line = .malformed .mark)
    ∧ ∀ body, s = 0x3A#8 :: body →
      (body.length < 2 → decodeLine line = .malformed .length)
      ∧ ∀ c0 c1 r, body = c0 :: c1 :: r →
        ((hexVal c0 = none ∨ hexVal c1 = none) → decodeLine line = .malformed .digit)
        ∧ ∀ ll, hexByte c0 c1 = some ll →
          (body.length ≠ 2 * (5 + ll.toNat) → decodeLine line = .malformed .length)
          ∧ (body.length = 2 * (5 + ll.toNat) →
            ((∃ c ∈ body, hexVal c = none) → decodeLine line = .malformed .digit)
            ∧ ∀ bs : List Byte, bs.length = 5 + ll.toNat →
              (∀ j, j < 5 + ll.toNat →
                hexByte (body.getD (2 * j) 0#8) (body.getD (2 * j + 1) 0#8) = some (bs.getD j 0#8)) →
              ((bs.map BitVec.toNat).sum % 256 ≠ 0 → decodeLine line = .malformed .checksum)
              ∧ ((bs.map BitVec.toNat).sum % 256 = 0 →
                decodeLine line
                  = .record
                      { len := bs.getD 0 0#8, off := be16 (bs.getD 1 0#8) (bs.getD 2 0#8), type := bs.getD 3 0#8,
                        payload := (bs.drop 4).take ll.toNat, cks := bs.getD (4 + ll.toNat) 0#8 }))

/-- R115: a line that differs from a valid line in one bit of its checksum byte fails with a checksum error. -/
def Obligations.ChecksumBitFlipFailsDecode : Prop :=
  ∀ (line flipped bs : List Byte) (c : Byte) (k : Nat) (r : HexRecord),
    k < 8 → decodeLine line = .record r → lineBytes line = .bytes (bs ++ [c]) →
    lineBytes flipped = .bytes (bs ++ [c ^^^ (1#8 <<< k)]) →
    decodeLine flipped = .malformed .checksum

/-- R112, R118: HRV's line buffer of 521 characters and one overflow flag decodes every line, of any length, as `Decode`
of the whole line does.
The model's own choices in it: log entry 12. -/
def Obligations.BoundedLineBufferDecodesTheWholeLine : Prop :=
  ∀ line : List Byte,
    let held := line.foldl (fun p c => storeChar p.1 p.2 c) (([] : List Byte), false)
    held.1.length ≤ 521 ∧ decodeLine (bufferedLine held.1 held.2) = decodeLine line

/-- A sanity statement: some words written out from R81 to R91 decode to the instruction they stand for; the error
response is two bytes (R95), after the readback bytes too, where an 0x45 among these is data (R88, R89).
The model's own choices in it: log entries 15, 20. -/
def Obligations.SomeWordsDecode : Prop :=
  decode .wire [0x42#8, 0x00#8, 0xC2#8, 0x01#8, 0x00#8] = .ok (.opBaud 115200#32) []
  ∧ decode (.response .crSequence) [0x0D#8, 0x0A#8, 0x3E#8] = .ok .crSequence []
  ∧ decode (.response .ackOk) [0x45#8, 0x63#8] = .ok .errResponse []
  ∧ decode (.response .ackEchoBaud) [0x45#8] = .error .truncated
  ∧ decode (.response (.readback 1#32)) [0x45#8, 0x45#8, 0x69#8] = .ok .errResponse []
  ∧ decode (.response (.readback 1#32)) [0x45#8, 0x4B#8] = .ok (.vfyReadback 1#32) []
  ∧ decode .record
      [0x3A#8, 0x30#8, 0x31#8, 0x30#8, 0x30#8, 0x31#8, 0x30#8, 0x30#8, 0x30#8, 0x41#8, 0x41#8, 0x34#8, 0x35#8]
    = .ok (.hexData 0x0010#16 [0xAA#8]) []
  ∧ decode .host [0x06#8, 0x10#8, 0x00#8, 0x01#8, 0x00#8, 0x01#8, 0x00#8, 0x00#8, 0x00#8]
    = .ok (.cmdLoad 0x00010010#32 1#32) []

/-! ## A step runs the instruction it fetches -/

/-- R27, R84, R110, R132, R170: when MUF has the turn, a step is the meaning of the instruction it fetches: the next
request at the host port when BUSY is 0 (its arguments latched), the sequencer's next instruction, the line HRV holds,
the record whose registers HSR holds.
The model's own choices in it: log entries 4, 14, 28. -/
def Obligations.StepRunsTheFetchedInstruction : Prop :=
  ∀ s : State, s.env.script = [] →
    (∀ q rest, s.busy = false → s.env.reqs = q :: rest →
      step s
        = exec (decodeHost q.op q.arg0 q.arg1)
            { s with busy := true, opCur := q.op, p0 := q.arg0, p1 := q.arg1, env := { s.env with reqs := rest } })
    ∧ (∀ i rest, s.busy = true → s.prog = .run i :: rest → step s = exec i { s with prog := rest })
    ∧ (∀ rest, s.busy = true → s.prog = .decodeLine :: rest →
      step s = exec (.hexrec (bufferedLine s.lineBuf s.lineOvf)) { s with prog := rest })
    ∧ (∀ rest, s.busy = true → s.prog = .act :: rest →
      step s = exec (recordInstr s.recType s.recOff (recPayload s)) { s with prog := rest })

/-! ## The response-test and the CR sequence -/

/-- R155: the shared response-test, mandatory or not: with nothing waiting (in connect, whose test is not mandatory, the
next statement is then the top of its loop), with an ordinary byte waiting, with ERR_IND and a status byte waiting, and
with ERR_IND alone and TP's timeout raised (it ends the read of the status byte if TP has one; else that read waits).
The model's own choices in it: log entries 3, 7, 8, 9. -/
def Obligations.ResponseTestScreensOneByte : Prop :=
  ∀ (s : State) (mandatory : Bool) (rest : List Stmt),
    s.attended → s.busy = true → s.prog = responseTest mandatory ++ rest →
    (s.env.rx = [] → mandatory = true →
      Reaches s (State.failed { s with winCnt := 0 } (timeoutReport 0#3 s.opCur)))
    ∧ (s.env.rx = [] → mandatory = false →
      Reaches s { s with winCnt := 0, prog := [.micro .connectTop] })
    ∧ (∀ b more, s.env.rx = b :: more → b ≠ 0x45#8 →
      Reaches s { s with winCnt := 0, rtByte := b, prog := rest, env := { s.env with rx := more } })
    ∧ (∀ c more, s.env.rx = 0x45#8 :: c :: more →
      Reaches s
        (State.failed { s with winCnt := 0, rtByte := 0x45#8, env := { s.env with rx := more } }
          (deviceReport c s.opCur)))
    ∧ (s.env.rx = [0x45#8] → s.env.rxTmo = true →
      Reaches s
        (if Config.tpHasTimeout = true then
          State.failed { s with winCnt := 0, rtByte := 0x45#8, env := { s.env with rx := [], rxTmo := false } }
            (timeoutReport 1#3 s.opCur)
        else
          { s with winCnt := 0, rtByte := 0x45#8, env := { s.env with rx := [] }, prog := .run .errResponse :: rest }))

/-- R161: `CrTail`: 0D 0A 3E passes; a first byte other than 0D is reported with nothing more read; else both other
bytes are read, unscreened, and the first mismatch in order is reported; where TP has a timeout, its end of the read of
either is a Timeout(Blocking), and else that read waits.
The model's own choices in it: log entries 3, 7, 8, 16, 30. -/
def Obligations.CrSequenceIsCheckedInOrder : Prop :=
  ∀ s : State, s.attended → s.busy = true →
    (s.rtByte ≠ 0x0D#8 →
      exec .crSequence s = .next (State.failed s (protocolReport 0x0D#8 s.rtByte s.opCur)))
    ∧ (∀ x y more, s.rtByte = 0x0D#8 → s.env.rx = x :: y :: more →
      ∃ u, exec .crSequence s = .next u
        ∧ Reaches u
          (let t : State := { s with rd2Lf := x, rd2Prompt := y, env := { s.env with rx := more } }
           if x ≠ 0x0A#8 then State.failed t (protocolReport 0x0A#8 x s.opCur)
           else if y ≠ 0x3E#8 then State.failed t (protocolReport 0x3E#8 y s.opCur)
           else t))
    ∧ (s.rtByte = 0x0D#8 → s.env.rxTmo = true →
      (s.env.rx = [] →
        ∃ u, exec .crSequence s = .next u
          ∧ Reaches u
            (if Config.tpHasTimeout = true then
              State.failed { s with env := { s.env with rxTmo := false } } (timeoutReport 1#3 s.opCur)
            else
              { s with prog := [.micro .readLf, .micro .readPrompt, .micro .expectPair] ++ s.prog }))
      ∧ ∀ x, s.env.rx = [x] →
        ∃ u, exec .crSequence s = .next u
          ∧ Reaches u
            (if Config.tpHasTimeout = true then
              State.failed { s with rd2Lf := x, env := { s.env with rx := [], rxTmo := false } }
                (timeoutReport 1#3 s.opCur)
            else
              { s with
                rd2Lf := x, env := { s.env with rx := [] },
                prog := [.micro .readPrompt, .micro .expectPair] ++ s.prog }))

/-- R89, R155, R205: after ERR_IND the next byte, whatever it is, becomes the code of a DeviceError; with no byte
waiting, TP's timeout raises Timeout(Blocking) if TP has one, and else MUF waits (R153).
The model's own choices in it: log entries 7, 8, 16. -/
def Obligations.ErrorIndicatorEndsInDeviceError : Prop :=
  ∀ s : State, s.env.doneReady = true →
    (∀ c more, s.env.rx = c :: more →
      exec .errResponse s
        = .next (State.failed { s with env := { s.env with rx := more } } (deviceReport c s.opCur)))
    ∧ (s.env.rx = [] → s.env.rxTmo = false →
      exec .errResponse s = .next { s with prog := .run .errResponse :: s.prog })
    ∧ (s.env.rx = [] → s.env.rxTmo = true →
      exec .errResponse s
        = if Config.tpHasTimeout = true then
            .next (State.failed { s with env := { s.env with rxTmo := false } } (timeoutReport 1#3 s.opCur))
          else .next { s with prog := .run .errResponse :: s.prog })

/-- R207: error entry: ANY_FAULT set, HS_ACTIVE cleared, SESS to Disconnected where CF raises the error in a session
that is not Closed, the status registers written, one report, BUSY 0, no statement left; nothing else changes.  While
the host does not take the report, all of that stands but the report and BUSY (R243).
The model's own choices in it: log entry 17. -/
def Obligations.ErrorEntryChangesOnlyWhatItSays : Prop :=
  ∀ (e : Err) (s : State),
    let r : Report :=
      match e with
      | .malformedRecord sub => malformedReport (malSubCode sub) s.opCur
      | .truncatedFile => { cause := .truncatedFile, sub := 0#3, exp := 0#8, act := 0#8, code := 0#8, op := s.opCur }
      | .protocolError x a => protocolReport x a s.opCur
      | .timeoutWindow => timeoutReport 0#3 s.opCur
      | .timeoutBlocking => timeoutReport 1#3 s.opCur
      | .deviceError c => deviceReport c s.opCur
    let t : State :=
      { s with
        anyFault := true, hsActive := false,
        sess :=
          match e with
          | .malformedRecord _ => s.sess
          | .truncatedFile => s.sess
          | _ => if s.sess = .closed then .closed else .disconnected }
    (s.env.doneReady = true → raise e s = State.reported t r)
    ∧ (s.env.doneReady = false →
      raise e s
        = { t with
            stCause := r.cause, stSub := r.sub, stExp := r.exp, stAct := r.act, stCode := r.code, stOp := r.op,
            prog := [.micro .report] })

/-- R90, R157: the compared acknowledgements: ACK_OK is 0x4B, the BAUD echo 0x42; another byte is a ProtocolError that
carries the expected and the actual byte (R203), and error entry does what R207 says.
The model's own choices in it: log entry 16. -/
def Obligations.AcknowledgementsAreCompared : Prop :=
  ∀ s : State, s.env.doneReady = true →
    (s.rtByte = 0x4B#8 → exec .ackOk s = .next s)
    ∧ (s.rtByte ≠ 0x4B#8 → exec .ackOk s = .next (State.failed s (protocolReport 0x4B#8 s.rtByte s.opCur)))
    ∧ (s.rtByte = 0x42#8 → exec .ackEchoBaud s = .next s)
    ∧ (s.rtByte ≠ 0x42#8 → exec .ackEchoBaud s = .next (State.failed s (protocolReport 0x42#8 s.rtByte s.opCur)))

/-- R178, R88, R89: `size` readback bytes, not screened, reach the host in order; then a response-test whose byte is
compared with 0x4B: another byte is a ProtocolError and ERR_IND a DeviceError, and the readback bytes stay handed over.
The model's own choices in it: log entries 9, 15, 16, 18. -/
def Obligations.ReadbackBytesReachTheHost : Prop :=
  ∀ (s : State) (size : Word) (readback more : List Byte) (ack : Byte),
    s.attended → s.busy = true → readback.length = size.toNat →
    let t : State :=
      { s with
        cnt := size, winCnt := 0, rtByte := ack, env := { s.env with rx := more },
        out := { s.out with readback := s.out.readback ++ readback } }
    (s.env.rx = readback ++ ack :: more → ack ≠ 0x45#8 →
      ∃ u, exec (.vfyReadback size) s = .next u
        ∧ Reaches u (if ack = 0x4B#8 then t else State.failed t (protocolReport 0x4B#8 ack s.opCur)))
    ∧ ∀ c, s.env.rx = readback ++ ack :: c :: more → ack = 0x45#8 →
      ∃ u, exec (.vfyReadback size) s = .next u ∧ Reaches u (State.failed t (deviceReport c s.opCur))

/-! ## Command frames -/

/-- R150, R30, R158: a wire opcode's first step sends its opcode byte and records it in LAST_CMD; nothing else changes
but the statements to run; while TP is not ready it holds (R243).
The model's own choices in it: log entry 3. -/
def Obligations.OpcodeByteIsSentAndRecorded : Prop :=
  ∀ (i : Instr) (op : Byte) (params : List Byte) (s : State), frameHeader i = op :: params →
    (s.env.txReady = true →
      ∃ exchange, exec i s
        = .next
            { s with
              lastCmd := op, lastCmdV := true, out := { s.out with tp := s.out.tp ++ [.tx op] },
              prog := exchange ++ s.prog })
    ∧ (s.env.txReady = false → exec i s = .next { s with prog := .run i :: s.prog })

/-- R158, R176: one BAUD exchange: opcode, a response that is not compared, the rate little-endian, a response compared
with 0x42.
The model's own choices in it: log entry 9. -/
def Obligations.BaudExchange : Prop :=
  ∀ (s : State) (rate : Word) (x y : Byte) (more : List Byte),
    s.attended → s.busy = true → s.env.rx = x :: y :: more → x ≠ 0x45#8 → y ≠ 0x45#8 →
    ∃ u, exec (.opBaud rate) s = .next u
      ∧ Reaches u
        (let t : State :=
          { s with
            lastCmd := 0x42#8, lastCmdV := true, winCnt := 0, rtByte := y, env := { s.env with rx := more },
            out := { s.out with tp := s.out.tp ++ txAll (0x42#8 :: le32 rate) } }
         if y = 0x42#8 then t else State.failed t (protocolReport 0x42#8 y s.opCur))

/-- R158, R160, R177: the LOAD exchange of a load that HSR started: the payload comes from REC_PAY in index order,
nothing is escaped, and only the fourth response is compared, with 0x4B.
The model's own choices in it: log entries 9, 18, 25. -/
def Obligations.WiredLoadExchange : Prop :=
  ∀ (s : State) (address length : Word) (x y z ack : Byte) (more : List Byte),
    s.attended → s.busy = true → s.hsActive = true → length.toNat ≤ 255 →
    s.env.rx = x :: y :: z :: ack :: more → x ≠ 0x45#8 → y ≠ 0x45#8 → z ≠ 0x45#8 → ack ≠ 0x45#8 →
    ∃ u, exec (.opLoad address length) s = .next u
      ∧ Reaches u
        (let t : State :=
          { s with
            lastCmd := 0x4C#8, lastCmdV := true, winCnt := 0, rtByte := ack, cnt := length,
            env := { s.env with rx := more },
            out :=
              { s.out with
                tp := s.out.tp
                  ++ txAll (0x4C#8 :: (le32 address ++ le32 length ++ Memory.readBytes s.recPay 0 length.toNat)) } }
         if ack = 0x4B#8 then t else State.failed t (protocolReport 0x4B#8 ack s.opCur))

/-! ## The HEX line and the record types -/

/-- R110, R21: a valid line writes its record to the record registers and changes nothing else but CKS_ACC: the payload
bytes at the indices below the length, every other byte of REC_PAY as it was; the payload has REC_LEN bytes, and the
record sums to 0 modulo 256.
The model's own choices in it: log entries 2, 11. -/
def Obligations.ValidLineWritesTheRecordRegisters : Prop :=
  ∀ (line : List Byte) (r : HexRecord) (s : State), decodeLine line = .record r → Memory.wf s.recPay = true →
    ∃ t, exec (.hexrec line) s = .next t
      ∧ t = { s with
              recLen := r.len, recOff := r.off, recType := r.type, recCks := r.cks, cksAcc := 0#8,
              recPay := t.recPay }
      ∧ (∀ a, Memory.read t.recPay a = if a < r.len.toNat then r.payload.getD a 0#8 else Memory.read s.recPay a)
      ∧ recordRegs t = r ∧ r.payload.length = r.len.toNat
      ∧ r.len + r.off.extractLsb' 8 8 + r.off.extractLsb' 0 8 + r.type + checksumAcc r.payload + r.cks = 0#8

/-- R201, R207, R144: a line that fails a check ends the HEXRUN with MalformedRecord and its sub-cause; SESS and every
other register of CF stay; the record registers are left unspecified (U6).
The model's own choices in it: log entries 10, 11. -/
def Obligations.InvalidLineRaisesMalformedRecord : Prop :=
  ∀ (line : List Byte) (sub : MalSub) (s : State), decodeLine line = .malformed sub → s.env.doneReady = true →
    ∃ t, exec (.hexrec line) s = .next t
      ∧ t = State.fileFailed
              { s with
                cksAcc := t.cksAcc, recLen := t.recLen, recOff := t.recOff, recType := t.recType,
                recPay := t.recPay, recCks := t.recCks, freeCtr := t.freeCtr }
              (malformedReport (malSubCode sub) s.opCur)

/-- R133, R142: a Data record in an Idle session starts a cmd_load of its payload at ABASE + offset (modulo 2^32), in
the HEXRUN: BUSY and OP_CUR stay.  With ABASE[15:0] = 0 (R23) that address is `{ABASE[31:16], REC_OFF}`.
The model's own choices in it: log entry 28. -/
def Obligations.DataRecordStartsALoad : Prop :=
  ∀ (offset : Half) (payload : List Byte) (s : State), s.sess = .idle →
    exec (.hexData offset payload) s
      = .next
          { s with
            sess := .loading, p0 := s.abase + offset.zeroExtend 32, p1 := BitVec.ofNat 32 payload.length,
            prog :=
              [.run (.opLoad (s.abase + offset.zeroExtend 32) (BitVec.ofNat 32 payload.length)), .run .opCr,
                .micro (.setSess .idle)] ++ s.prog }
    ∧ (s.abase.extractLsb' 0 16 = 0#16 →
      s.abase + offset.zeroExtend 32 = s.abase.extractLsb' 16 16 ++ offset)

/-- R138, R142, R67: a StartLinearAddress record in an Idle session starts a cmd_run at its payload read big-endian,
which goes out little-endian; a payload of another length than 4 is MalformedRecord(PayloadLen).
The model's own choices in it: log entry 28. -/
def Obligations.StartLinearAddressStartsARun : Prop :=
  ∀ (offset : Half) (s : State),
    (∀ b0 b1 b2 b3 : Byte, s.sess = .idle →
      exec (.hexStartLinearAddress offset [b0, b1, b2, b3]) s
        = .next
            { s with
              p0 := b0 ++ b1 ++ b2 ++ b3,
              prog := .run (.opRun (b0 ++ b1 ++ b2 ++ b3)) :: .micro (.setSess .running) :: s.prog }
      ∧ frameHeader (.opRun (b0 ++ b1 ++ b2 ++ b3)) = [0x52#8, b3, b2, b1, b0])
    ∧ ∀ payload : List Byte, payload.length ≠ 4 → s.env.doneReady = true →
      exec (.hexStartLinearAddress offset payload) s = .next (State.fileFailed s (malformedReport 4#3 s.opCur))

/-- R142, R170: an event of HSR in a session that is not Idle ends the HEXRUN with Refused and the code of the refused
operation, 0x6 or 0x8; nothing is sent. -/
def Obligations.EventOutsideIdleIsRefused : Prop :=
  ∀ (offset : Half) (payload : List Byte) (b0 b1 b2 b3 : Byte) (s : State),
    s.sess ≠ .idle → s.env.doneReady = true →
    exec (.hexData offset payload) s
      = .next (State.reported { s with hsActive := false } (refusedReport 0x6#4 s.opCur))
    ∧ exec (.hexStartLinearAddress offset [b0, b1, b2, b3]) s
      = .next (State.reported { s with hsActive := false } (refusedReport 0x8#4 s.opCur))

/-- R137: an ExtendedLinearAddress record of two payload bytes sets ABASE to them, big-endian, in its upper half; any
other payload length is MalformedRecord(PayloadLen), and ABASE stays. -/
def Obligations.ExtendedLinearAddressSetsTheBase : Prop :=
  ∀ (offset : Half) (s : State),
    (∀ b0 b1, exec (.hexExtendedLinearAddress offset [b0, b1]) s = .next { s with abase := b0 ++ b1 ++ 0#16 })
    ∧ ∀ payload : List Byte, payload.length ≠ 2 → s.env.doneReady = true →
      exec (.hexExtendedLinearAddress offset payload) s = .next (State.fileFailed s (malformedReport 4#3 s.opCur))

/-- R135, R136: the segment address records: no action, no event, no exception, so ABASE too is as it was; each is
yielded with kind 0; and the worked example of each. -/
def Obligations.SegmentRecordsArePassedThrough : Prop :=
  (∀ (offset : Half) (payload : List Byte) (s : State),
    recordInstr 0x02#8 offset payload = .hexExtendedSegmentAddress offset payload
    ∧ recordInstr 0x03#8 offset payload = .hexStartSegmentAddress offset payload
    ∧ exec (.hexExtendedSegmentAddress offset payload) s = .next s
    ∧ exec (.hexStartSegmentAddress offset payload) s = .next s)
  ∧ (∀ s : State, (s.recType = 0x02#8 ∨ s.recType = 0x03#8) → s.env.recReady = true →
    ∃ t kind, execMicro .yield s = .next t ∧ t.out.records = s.out.records ++ [(kind, recordRegs s)]
      ∧ RecKind.code kind = 0#2)
  ∧ decode .record
      [0x3A#8, 0x30#8, 0x32#8, 0x30#8, 0x30#8, 0x30#8, 0x30#8, 0x30#8, 0x32#8, 0x31#8, 0x30#8, 0x30#8, 0x30#8, 0x45#8,
        0x43#8]
    = .ok (.hexExtendedSegmentAddress 0x0000#16 [0x10#8, 0x00#8]) []
  ∧ decode .record
      [0x3A#8, 0x30#8, 0x34#8, 0x30#8, 0x30#8, 0x30#8, 0x30#8, 0x30#8, 0x33#8, 0x30#8, 0x30#8, 0x30#8, 0x30#8, 0x30#8,
        0x31#8, 0x30#8, 0x30#8, 0x46#8, 0x38#8]
    = .ok (.hexStartSegmentAddress 0x0000#16 [0x00#8, 0x00#8, 0x01#8, 0x00#8]) []

/-- R130, R134, R139, R140: a record whose action has run is offered with its kind until the host takes it, and then the
next line is read; after an EndOfFile record, which sets EOF_SEEN whatever its fields, HEXRUN completes instead, and
nothing is yielded; the action of an unknown type changes nothing.
The model's own choices in it: log entry 28. -/
def Obligations.RecordsAreYieldedUntilEndOfFile : Prop :=
  (∀ (type : Byte) (offset : Half) (payload : List Byte) (s : State),
    exec (.hexEndOfFile offset payload) s = .next { s with eofSeen := true }
    ∧ exec (.hexUnknown type offset payload) s = .next s)
  ∧ ∀ s : State, s.env.script = [] → s.busy = true → s.prog = [.micro .eofTest, .micro .yield] →
    (s.eofSeen = true → s.env.doneReady = true →
      step s = .next (State.reported { s with hsActive := false } (okReport s.opCur)))
    ∧ (s.eofSeen = false → s.env.recReady = true →
      Reaches s
        { s with
          prog := [.micro .lineStart, .micro .nextChar, .decodeLine, .act, .micro .eofTest, .micro .yield],
          out :=
            { s.out with
              records := s.out.records
                ++ [(if s.recType = 0x00#8 then .write
                     else if s.recType = 0x04#8 then .baseUpdate
                     else if s.recType = 0x05#8 then .execute
                     else .passThrough, recordRegs s)] } })
    ∧ (s.eofSeen = false → s.env.recReady = false →
      ∃ u, step s = .next u ∧ u = { s with prog := [.micro .yield] } ∧ step u = .next u)

/-- R21, R64: a step writes a record register or a byte of REC_PAY only where it is the decode of the line HRV holds
(or the reset input); and no instruction but that decode writes one. -/
def Obligations.OnlyDecodeWritesTheRecordRegisters : Prop :=
  (∀ s t : State, s.Inv → (∀ rest, s.env.script ≠ .env .reset :: rest) → step s = .next t →
    (t.recLen = s.recLen ∧ t.recOff = s.recOff ∧ t.recType = s.recType ∧ t.recCks = s.recCks
      ∧ ∀ a, Memory.read t.recPay a = Memory.read s.recPay a)
    ∨ (s.busy = true ∧ ∃ rest, s.prog = .decodeLine :: rest))
  ∧ ∀ (i : Instr) (s t : State), (∀ line, i ≠ .hexrec line) → exec i s = .next t →
    t.recLen = s.recLen ∧ t.recOff = s.recOff ∧ t.recType = s.recType ∧ t.recCks = s.recCks
      ∧ ∀ a, Memory.read t.recPay a = Memory.read s.recPay a

/-! ## Host operations -/

/-- R170: with BUSY 0 and a request offered, the admission table decides: an admitted operation is latched and begins,
a refused one sends nothing, changes nothing but the status registers (and the latched code and arguments), and
completes at once with Refused and its code.
The model's own choices in it: log entry 14. -/
def Obligations.AdmissionTableDecides : Prop :=
  ∀ (s : State) (q : Request) (rest : List Request),
    s.env.script = [] → s.env.doneReady = true → s.busy = false → s.sess.resting = true → s.env.reqs = q :: rest →
    (tableAdmits q.op s.sess = true →
      ∃ t, step s = .next t ∧ t.busy = true ∧ t.opCur = q.op ∧ t.p0 = q.arg0 ∧ t.p1 = q.arg1 ∧ t.prog ≠ []
        ∧ t.out = s.out ∧ t.env = { s.env with reqs := rest } ∧ t.stCause = s.stCause ∧ t.stOp = s.stOp)
    ∧ (tableAdmits q.op s.sess = false →
      step s
        = .next
            (State.reported
              { s with opCur := q.op, p0 := q.arg0, p1 := q.arg1, env := { s.env with reqs := rest } }
              (refusedReport q.op q.op)))

/-- R94, R170: a reserved code is refused in every state, without setting ANY_FAULT.
The model's own choices in it: log entries 14, 27. -/
def Obligations.ReservedCodeIsRefused : Prop :=
  ∀ (code : Nibble) (s : State), 10 ≤ code.toNat → s.env.doneReady = true →
    exec (.reservedHostOp code) s = .next (State.reported { s with opCur := code } (refusedReport code code))

/-- R171: `open(rate)` in Closed, once TP acknowledges: TP open at the rate, 8N1; SESS Disconnected; no byte sent.
The model's own choices in it: log entry 6. -/
def Obligations.OpenCompletes : Prop :=
  ∀ (s : State) (rate : Word) (queue : List Byte) (acks : List (List Byte)),
    s.attended → s.sess = .closed → s.env.tpAcks = queue :: acks →
    ∃ u, exec (.hostOpen rate) s = .next u
      ∧ Reaches u
        (State.reported
          { s with
            opCur := 0x0#4, p0 := rate, baudCur := rate, lastCmdV := false, sess := .disconnected,
            env := { s.env with tpAcks := acks, rx := queue },
            out := { s.out with tp := s.out.tp ++ [.openReq rate Config.lineFormat] } }
          (okReport 0x0#4))

/-- R172: `close()` in Disconnected, Idle or Running, once TP acknowledges.
The model's own choices in it: log entry 6. -/
def Obligations.CloseCompletes : Prop :=
  ∀ (s : State) (queue : List Byte) (acks : List (List Byte)),
    s.attended → (s.sess = .disconnected ∨ s.sess = .idle ∨ s.sess = .running) → s.env.tpAcks = queue :: acks →
    ∃ u, exec .hostClose s = .next u
      ∧ Reaches u
        (State.reported
          { s with
            opCur := 0x1#4, sess := .closed, env := { s.env with tpAcks := acks, rx := queue },
            out := { s.out with tp := s.out.tp ++ [.closeReq] } }
          (okReport 0x1#4))

/-- R173: `connect()` that finds the CR sequence at once.
The model's own choices in it: log entry 9. -/
def Obligations.ConnectCompletes : Prop :=
  ∀ (s : State) (more : List Byte),
    s.attended → s.sess = .disconnected → s.env.abort = false → s.env.rx = [0x0D#8, 0x0A#8, 0x3E#8] ++ more →
    ∃ u, exec .hostConnect s = .next u
      ∧ Reaches u
        (State.reported
          { s with
            opCur := 0x2#4, sess := .idle, lastCmd := 0x00#8, lastCmdV := true, winCnt := 0, rtByte := 0x0D#8,
            rd2Lf := 0x0A#8, rd2Prompt := 0x3E#8, env := { s.env with rx := more },
            out := { s.out with tp := s.out.tp ++ txAll [0x00#8] } }
          (okReport 0x2#4))

/-- R173: silence is retried without limit: whatever the number `n` of silent polls before the device answers with the
CR sequence, `connect()` then succeeds, having sent exactly `n + 1` SYNC bytes.  The device's bytes arrive after the
`n` silent rounds of five steps and before the poll of the next.
The model's own choices in it: log entries 3, 4, 9. -/
def Obligations.ConnectRetriesSilenceUntilAnswered : Prop :=
  ∀ (n : Nat) (s : State),
    s.sess = .disconnected → s.env.abort = false → s.env.txReady = true → s.env.doneReady = true → s.env.rx = [] →
    s.env.script
      = List.replicate (5 * n + 3) .muf
        ++ [.env (.rxByte 0x0D#8), .env (.rxByte 0x0A#8), .env (.rxByte 0x3E#8)] →
    ∃ u, exec .hostConnect s = .next u
      ∧ Reaches u
        (State.reported
          { s with
            opCur := 0x2#4, sess := .idle, lastCmd := 0x00#8, lastCmdV := true, winCnt := 0, rtByte := 0x0D#8,
            rd2Lf := 0x0A#8, rd2Prompt := 0x3E#8, env := { s.env with script := [] },
            out := { s.out with tp := s.out.tp ++ txAll (List.replicate (n + 1) 0x00#8) } }
          (okReport 0x2#4))

/-- R173, R213: with `abort` 1 at the top of connect's loop, the first or a later one and whatever was sent before,
`connect()` ends with Cancelled and SESS Disconnected; no byte more is sent and ANY_FAULT stays.  An `abort` raised
after `m + 1` steps of a silent connect is seen at the next top: the iteration in progress sends its SYNC byte.
The model's own choices in it: log entries 3, 4, 9. -/
def Obligations.AbortCancelsConnect : Prop :=
  (∀ s : State, s.attended → s.sess = .disconnected → s.env.abort = true →
    ∃ u, exec .hostConnect s = .next u
      ∧ Reaches u (State.reported { s with opCur := 0x2#4 } (cancelledReport 0x2#4)))
  ∧ (∀ s : State, s.attended → s.busy = true → s.sess = .connecting → s.prog = [.micro .connectTop] →
    s.env.abort = true →
    Reaches s (State.reported { s with sess := .disconnected } (cancelledReport s.opCur)))
  ∧ ∀ (m : Nat) (s : State),
    s.sess = .disconnected → s.env.abort = false → s.env.txReady = true → s.env.doneReady = true → s.env.rx = [] →
    s.env.script = List.replicate (m + 1) .muf ++ [.env (.setAbort true)] →
    ∃ u, exec .hostConnect s = .next u
      ∧ Reaches u
        (State.reported
          { s with
            opCur := 0x2#4, lastCmd := 0x00#8, lastCmdV := true, winCnt := 0,
            env := { s.env with script := [], abort := true },
            out := { s.out with tp := s.out.tp ++ txAll (List.replicate (m / 5 + 1) 0x00#8) } }
          (cancelledReport 0x2#4))

/-- R174: `cmd_sync()` sends 00 0D with no response-test between them.
The model's own choices in it: log entry 9. -/
def Obligations.CmdSyncCompletes : Prop :=
  ∀ (s : State) (more : List Byte),
    s.attended → s.sess = .idle → s.env.rx = [0x0D#8, 0x0A#8, 0x3E#8] ++ more →
    ∃ u, exec .cmdSync s = .next u
      ∧ Reaches u
        (State.reported
          { s with
            opCur := 0x3#4, lastCmd := 0x0D#8, lastCmdV := true, winCnt := 0, rtByte := 0x0D#8, rd2Lf := 0x0A#8,
            rd2Prompt := 0x3E#8, env := { s.env with rx := more },
            out := { s.out with tp := s.out.tp ++ txAll [0x00#8, 0x0D#8] } }
          (okReport 0x3#4))

/-- R175: `cmd_cr()` with the CR sequence waiting; with nothing waiting it ends in Timeout(Window), the session lost.
The model's own choices in it: log entry 9. -/
def Obligations.CmdCrCompletes : Prop :=
  ∀ (s : State), s.attended → s.sess = .idle →
    (∀ more, s.env.rx = [0x0D#8, 0x0A#8, 0x3E#8] ++ more →
      ∃ u, exec .cmdCr s = .next u
        ∧ Reaches u
          (State.reported
            { s with
              opCur := 0x4#4, lastCmd := 0x0D#8, lastCmdV := true, winCnt := 0, rtByte := 0x0D#8, rd2Lf := 0x0A#8,
              rd2Prompt := 0x3E#8, env := { s.env with rx := more },
              out := { s.out with tp := s.out.tp ++ txAll [0x0D#8] } }
            (okReport 0x4#4)))
    ∧ (s.env.rx = [] →
      ∃ u, exec .cmdCr s = .next u
        ∧ Reaches u
          (State.failed
            { s with
              opCur := 0x4#4, lastCmd := 0x0D#8, lastCmdV := true, winCnt := 0,
              out := { s.out with tp := s.out.tp ++ txAll [0x0D#8] } }
            (timeoutReport 0#3 0x4#4)))

/-- R176: `cmd_baud(rate)`: the exchange, close and reopen at the new rate, the whole exchange again, the CR exchange.
What TP's queue holds after the reopen is the environment's (R159): here the device's second answers.
The model's own choices in it: log entries 6, 9. -/
def Obligations.CmdBaudCompletes : Prop :=
  ∀ (s : State) (rate : Word) (x y : Byte) (stale between more : List Byte) (acks : List (List Byte)),
    s.attended → s.sess = .idle → s.env.rx = x :: 0x42#8 :: stale → x ≠ 0x45#8 → y ≠ 0x45#8 →
    s.env.tpAcks = between :: (y :: 0x42#8 :: 0x0D#8 :: 0x0A#8 :: 0x3E#8 :: more) :: acks →
    ∃ u, exec (.cmdBaud rate) s = .next u
      ∧ Reaches u
        (State.reported
          { s with
            opCur := 0x5#4, p0 := rate, baudCur := rate, lastCmd := 0x0D#8, lastCmdV := true, winCnt := 0,
            rtByte := 0x0D#8, rd2Lf := 0x0A#8, rd2Prompt := 0x3E#8,
            env := { s.env with tpAcks := acks, rx := more },
            out :=
              { s.out with
                tp := s.out.tp ++ txAll (0x42#8 :: le32 rate)
                  ++ [.closeReq, .openReq rate Config.lineFormat]
                  ++ txAll (0x42#8 :: (le32 rate ++ [0x0D#8])) } }
          (okReport 0x5#4))

/-- R177: `cmd_load(address, bytes)` issued by the host: for every payload of `length` bytes the frame sent is LOAD,
address, length, payload as it is, then the carriage return; intermediate responses are not compared.  A final
acknowledgement other than 0x4B fails it even if every step before it succeeded, and no carriage return is sent.
The model's own choices in it: log entries 9, 18. -/
def Obligations.CmdLoadCompletes : Prop :=
  ∀ (s : State) (address length : Word) (x y z : Byte) (payload later more : List Byte),
    s.attended → s.sess = .idle → s.hsActive = false → payload.length = length.toNat →
    s.env.pl = payload ++ later → x ≠ 0x45#8 → y ≠ 0x45#8 → z ≠ 0x45#8 →
    let loaded (last ack : Byte) (sent : List Byte) : State :=
      { s with
        opCur := 0x6#4, p0 := address, p1 := length, cnt := length, lastCmd := last, lastCmdV := true,
        winCnt := 0, rtByte := ack, env := { s.env with pl := later, rx := more },
        out :=
          { s.out with
            tp := s.out.tp ++ txAll (0x4C#8 :: (le32 address ++ le32 length ++ payload ++ sent)) } }
    (s.env.rx = x :: y :: z :: 0x4B#8 :: 0x0D#8 :: 0x0A#8 :: 0x3E#8 :: more →
      ∃ u, exec (.cmdLoad address length) s = .next u
        ∧ Reaches u
          (State.reported { loaded 0x0D#8 0x0D#8 [0x0D#8] with rd2Lf := 0x0A#8, rd2Prompt := 0x3E#8 }
            (okReport 0x6#4)))
    ∧ ∀ ack, s.env.rx = x :: y :: z :: ack :: more → ack ≠ 0x45#8 → ack ≠ 0x4B#8 →
      ∃ u, exec (.cmdLoad address length) s = .next u
        ∧ Reaches u (State.failed (loaded 0x4C#8 ack []) (protocolReport 0x4B#8 ack 0x6#4))

/-- R178: `cmd_vfy(address, size)`: for every readback of `size` bytes, whatever they are, the host gets them in order.
A final acknowledgement other than 0x4B fails it, the readback bytes already handed over.
The model's own choices in it: log entries 9, 18. -/
def Obligations.CmdVfyCompletes : Prop :=
  ∀ (s : State) (address size : Word) (x y z : Byte) (readback more : List Byte),
    s.attended → s.sess = .idle → readback.length = size.toNat → x ≠ 0x45#8 → y ≠ 0x45#8 → z ≠ 0x45#8 →
    let verified (last ack : Byte) (sent : List Byte) : State :=
      { s with
        opCur := 0x7#4, p0 := address, p1 := size, cnt := size, lastCmd := last, lastCmdV := true,
        winCnt := 0, rtByte := ack, env := { s.env with rx := more },
        out :=
          { s.out with
            tp := s.out.tp ++ txAll (0x59#8 :: (le32 address ++ le32 size ++ sent)),
            readback := s.out.readback ++ readback } }
    (s.env.rx = x :: y :: z :: (readback ++ 0x4B#8 :: 0x0D#8 :: 0x0A#8 :: 0x3E#8 :: more) →
      ∃ u, exec (.cmdVfy address size) s = .next u
        ∧ Reaches u
          (State.reported { verified 0x0D#8 0x0D#8 [0x0D#8] with rd2Lf := 0x0A#8, rd2Prompt := 0x3E#8 }
            (okReport 0x7#4)))
    ∧ ∀ ack, s.env.rx = x :: y :: z :: (readback ++ ack :: more) → ack ≠ 0x45#8 → ack ≠ 0x4B#8 →
      ∃ u, exec (.cmdVfy address size) s = .next u
        ∧ Reaches u (State.failed (verified 0x59#8 ack []) (protocolReport 0x4B#8 ack 0x7#4))

/-- R179: `cmd_run(vectorTableAddress)` with a response that is not ERR_IND: SESS Running; what follows stays unread.
The model's own choices in it: log entry 9. -/
def Obligations.CmdRunCompletes : Prop :=
  ∀ (s : State) (address : Word) (x : Byte) (more : List Byte),
    s.attended → s.sess = .idle → s.env.rx = x :: more → x ≠ 0x45#8 →
    ∃ u, exec (.cmdRun address) s = .next u
      ∧ Reaches u
        (State.reported
          { s with
            opCur := 0x8#4, p0 := address, sess := .running, lastCmd := 0x52#8, lastCmdV := true, winCnt := 0,
            rtByte := x, env := { s.env with rx := more },
            out := { s.out with tp := s.out.tp ++ txAll (0x52#8 :: le32 address) } }
          (okReport 0x8#4))

/-- R130, R134: HEXRUN over a stream whose first line is an EndOfFile record, of any offset and payload, ended by 0x0A,
completes with OK in every SESS: no event, no byte sent, no record yielded, no character after the line taken.
The model's own choices in it: log entry 12. -/
def Obligations.HexrunStopsAtEndOfFile : Prop :=
  ∀ (s : State) (offset : Half) (payload : List Byte) (more : List HexItem),
    s.attended → payload.length ≤ 255 →
    s.env.hx = (encodeLine 0x01#8 offset payload ++ [0x0A#8]).map .char ++ more →
    ∃ u, exec .hexrun s = .next u
      ∧ Reaches u
        (State.reported
          { s with
            opCur := 0x9#4, hsActive := false, eofSeen := true, abase := 0#32,
            recLen := BitVec.ofNat 8 payload.length, recOff := offset, recType := 0x01#8,
            recPay := Memory.writeBytes s.recPay 0 payload, recCks := recordChecksum 0x01#8 offset payload,
            cksAcc := 0#8, lineBuf := (encodeLine 0x01#8 offset payload ++ [0x0A#8]).take 521, lineOvf := false,
            env := { s.env with hx := more } }
          (okReport 0x9#4))

/-- R133, R142: HEXRUN over a Data record and an EndOfFile record, in an Idle session: it loads the payload at the
record's offset (ABASE is 0 at its start), yields the record with kind write, and completes with one report.
The model's own choices in it: log entries 2, 9, 12, 18. -/
def Obligations.HexrunLoadsADataRecord : Prop :=
  ∀ (s : State) (offset : Half) (payload : List Byte) (x y z : Byte) (more : List Byte),
    s.attended → s.sess = .idle → Memory.wf s.recPay = true → payload.length ≤ 255 →
    s.env.hx
      = (encodeLine 0x00#8 offset payload ++ [0x0A#8]).map .char
        ++ (encodeLine 0x01#8 0x0000#16 [] ++ [0x0A#8]).map .char →
    x ≠ 0x45#8 → y ≠ 0x45#8 → z ≠ 0x45#8 →
    s.env.rx = x :: y :: z :: 0x4B#8 :: 0x0D#8 :: 0x0A#8 :: 0x3E#8 :: more →
    ∃ u, exec .hexrun s = .next u
      ∧ Reaches u
        (State.reported
          { s with
            opCur := 0x9#4, hsActive := false, eofSeen := true, abase := 0#32,
            recLen := 0x00#8, recOff := 0x0000#16, recType := 0x01#8,
            recPay := Memory.writeBytes s.recPay 0 payload, recCks := 0xFF#8, cksAcc := 0#8,
            lineBuf := encodeLine 0x01#8 0x0000#16 [] ++ [0x0A#8], lineOvf := false,
            p0 := 0#16 ++ offset, p1 := BitVec.ofNat 32 payload.length, cnt := BitVec.ofNat 32 payload.length,
            lastCmd := 0x0D#8, lastCmdV := true, winCnt := 0, rtByte := 0x0D#8, rd2Lf := 0x0A#8,
            rd2Prompt := 0x3E#8, env := { s.env with hx := [], rx := more },
            out :=
              { s.out with
                tp := s.out.tp
                  ++ txAll
                      (0x4C#8 :: (le32 (0#16 ++ offset) ++ le32 (BitVec.ofNat 32 payload.length) ++ payload
                        ++ [0x0D#8])),
                records := s.out.records
                  ++ [(.write,
                      { len := BitVec.ofNat 8 payload.length, off := offset, type := 0x00#8, payload := payload,
                        cks := recordChecksum 0x00#8 offset payload })] } }
          (okReport 0x9#4))

/-- R131, R141: input that ends where a line would begin ends HEXRUN with TruncatedFile: at its start, and at every later
line, whatever the records before it.  Input that ends inside a line ends that line, which is decoded as a line; after a
record that is only passed through (R135, R136, R139) the same end of input is then TruncatedFile.
The model's own choices in it: log entries 2, 12, 13, 28. -/
def Obligations.HexInputEndIsTruncatedFile : Prop :=
  (∀ (s : State) (later : List HexItem), s.attended → s.env.hx = .eos :: later →
    ∃ u, exec .hexrun s = .next u
      ∧ Reaches u
        (State.fileFailed
          { s with
            opCur := 0x9#4, eofSeen := false, abase := 0#32, lineBuf := [], lineOvf := false,
            env := { s.env with hx := later } }
          (truncatedReport 0x9#4)))
  ∧ (∀ (s : State) (later : List HexItem), s.attended → s.busy = true → s.prog = hexLoop → s.env.hx = .eos :: later →
    Reaches s
      (State.fileFailed { s with lineBuf := [], lineOvf := false, env := { s.env with hx := later } }
        (truncatedReport s.opCur)))
  ∧ (∀ (s : State) (line : List Byte) (later : List HexItem), s.attended → s.busy = true → s.prog = hexLoop →
    line ≠ [] → (0x0A#8 : Byte) ∉ line → s.env.hx = line.map .char ++ .eos :: later →
    let held := line.foldl (fun p c => storeChar p.1 p.2 c) (([] : List Byte), false)
    Reaches s
      { s with
        prog := [.decodeLine, .act, .micro .eofTest, .micro .yield], lineBuf := held.1, lineOvf := held.2,
        env := { s.env with hx := .eos :: later } })
  ∧ ∀ (s : State) (type : Byte) (offset : Half) (payload : List Byte) (later : List HexItem),
    s.attended → s.busy = true → s.prog = hexLoop → s.eofSeen = false → Memory.wf s.recPay = true →
    payload.length ≤ 255 → type ≠ 0x00#8 → type ≠ 0x01#8 → type ≠ 0x04#8 → type ≠ 0x05#8 →
    s.env.hx = (encodeLine type offset payload).map .char ++ .eos :: later →
    Reaches s
      (State.fileFailed
        { s with
          recLen := BitVec.ofNat 8 payload.length, recOff := offset, recType := type,
          recPay := Memory.writeBytes s.recPay 0 payload, recCks := recordChecksum type offset payload, cksAcc := 0#8,
          lineBuf := [], lineOvf := false, env := { s.env with hx := later },
          out :=
            { s.out with
              records := s.out.records
                ++ [(.passThrough,
                    { len := BitVec.ofNat 8 payload.length, off := offset, type := type, payload := payload,
                      cks := recordChecksum type offset payload })] } }
        (truncatedReport s.opCur))

/-! ## Holds -/

/-- R243: each step that waits leaves the state as it is until its condition comes.
The model's own choices in it: log entries 4, 17. -/
def Obligations.HoldsWaitForTheirCondition : Prop :=
  ∀ (s : State) (st : Stmt) (rest : List Stmt), s.env.script = [] → s.busy = true → s.prog = st :: rest →
    (s.env.txReady = false →
      ((∃ b, st = .micro (.send b) ∨ st = .micro (.sendPay b)) ∨ ∃ i b l, st = .run i ∧ frameHeader i = b :: l) →
      step s = .next s)
    ∧ (s.env.rx = [] → (s.env.rxTmo = false ∨ Config.tpHasTimeout = false) →
      (st = .micro .readLf ∨ st = .micro .readPrompt ∨ st = .run .errResponse
        ∨ ∃ n, st = .micro (.readback n) ∧ s.cnt ≠ n) →
      step s = .next s)
    ∧ (s.env.tpAcks = [] → (st = .micro .tpClose ∨ ∃ rate, st = .micro (.tpOpen rate)) → step s = .next s)
    ∧ (s.env.pl = [] → s.hsActive = false → (∃ n, st = .micro (.payload n) ∧ s.cnt ≠ n) → step s = .next s)
    ∧ (s.env.rbReady = false → (∃ b, st = .micro (.handRb b)) → step s = .next s)
    ∧ (s.env.recReady = false → st = .micro .yield → step s = .next s)
    ∧ (s.env.hx = [] → st = .micro .nextChar → step s = .next s)
    ∧ (s.env.doneReady = false → st = .micro .report → rest = [] → step s = .next s)

/-! ## The machine as a whole -/

/-- R38, R230, R231: what the spec says every register holds after reset (those it calls unspecified are left out): in
the state the machine starts in, and after the reset input in any state, which drops the operation in flight without a
report and sends nothing, so that the ports and what was put out stay.
The model's own choices in it: log entry 23. -/
def Obligations.ResetLeavesTheSpecifiedValues : Prop :=
  State.reset.HasResetValues
  ∧ ∀ (s : State) (rest : List Turn), s.env.script = .env .reset :: rest →
    ∃ t, step s = .next t ∧ t.HasResetValues ∧ t.out = s.out ∧ t.env = { s.env with script := rest }

/-- R26, R28, R31, R91, R140, R216: the codes of SESS, ST_CAUSE, ST_SUB, the host operations, the record kinds and
tp_req; CONNECTED is 1 in Idle, Loading, Verifying and SettingBaud and 0 in every other state of the session. -/
def Obligations.CodesAreThoseOfTheTables : Prop :=
  [Sess.closed, .disconnected, .connecting, .idle, .loading, .verifying, .settingBaud, .running].map Sess.code
    = [0#3, 1#3, 2#3, 3#3, 4#3, 5#3, 6#3, 7#3]
  ∧ [Cause.ok, .malformedRecord, .truncatedFile, .protocolError, .timeout, .deviceError, .cancelled, .refused].map
      Cause.code
    = [0#3, 1#3, 2#3, 3#3, 4#3, 5#3, 6#3, 7#3]
  ∧ [MalSub.mark, .length, .checksum, .digit, .payloadLen].map malSubCode = [0#3, 1#3, 2#3, 3#3, 4#3]
  ∧ [Err.timeoutWindow, .timeoutBlocking].map (fun e => (Status.error e).sub) = [0#3, 1#3]
  ∧ [HostOp.open_, .close, .connect, .sync, .cr, .baud, .load, .vfy, .run, .hexrun].map HostOp.code
    = [0x0#4, 0x1#4, 0x2#4, 0x3#4, 0x4#4, 0x5#4, 0x6#4, 0x7#4, 0x8#4, 0x9#4]
  ∧ [RecKind.passThrough, .write, .execute, .baseUpdate].map RecKind.code = [0#2, 1#2, 2#2, 3#2]
  ∧ (∀ (rate : Word) (f : LineFormat) (b : Byte),
    (TpOut.openReq rate f).reqCode = some 1#2 ∧ TpOut.closeReq.reqCode = some 2#2 ∧ (TpOut.tx b).reqCode = none)
  ∧ ∀ s : State,
    s.connected = true ↔ s.sess = .idle ∨ s.sess = .loading ∨ s.sess = .verifying ∨ s.sess = .settingBaud

/-- The invariant holds after reset.
The model's own choices in it: log entries 2, 28. -/
def Obligations.InvHoldsAtReset : Prop := State.reset.Inv

/-- The invariant is kept by every step, from every state that meets it: REC_PAY keeps its canonical form, ABASE its
zero lower half (R23), LAST_CMD an opcode (R87), BUSY 0 comes only with a state a request is judged in (R170), and the
statements to run stay those of an operation (R27), each one that the operation in flight has (R29, R30).
The model's own choices in it: log entries 2, 28. -/
def Obligations.EveryStepKeepsInv : Prop :=
  ∀ s t : State, s.Inv → step s = .next t → t.Inv

/-- No state that meets the invariant makes the machine stop: every step answers a next state.
The model's own choices in it: log entry 26. -/
def Obligations.InvStatesNeverStop : Prop :=
  ∀ s : State, s.Inv → ∃ t, step s = .next t

/-- Every instruction answers a next state, in every state: it takes effect, holds, or raises an error of the
taxonomy (R200), which is a next state too.
The model's own choices in it: log entry 27. -/
def Obligations.NoInstructionStops : Prop :=
  ∀ (i : Instr) (s : State), ∃ t, exec i s = .next t

/-- R180: no step but reset changes SESS in a way the table does not list. -/
def Obligations.SessChangesOnlyAsTheTableSays : Prop :=
  ∀ s t : State, s.Inv → (∀ rest, s.env.script ≠ .env .reset :: rest) → step s = .next t →
    t.sess = s.sess ∨ sessEdge s.sess t.sess = true

/-- R181, R72: a step sends at most one byte, and none in Closed, Disconnected or Running.
The model's own choices in it: log entry 3. -/
def Obligations.BytesLeaveOnlyInAnExchangingSession : Prop :=
  ∀ s t : State, s.Inv → step s = .next t →
    t.out.sent = s.out.sent ∨ (s.sess.exchanging = true ∧ ∃ b, t.out.sent = s.out.sent ++ [b])

/-- R74, R181: MUF takes received bytes oldest first, one a step, and none in Running; only an acknowledgement of TP
(R159) or the environment changes the queue otherwise.
The model's own choices in it: log entries 4, 6. -/
def Obligations.ReceivedBytesAreTakenInOrder : Prop :=
  ∀ s t : State, s.Inv → s.env.script = [] → step s = .next t → t.env.tpAcks = s.env.tpAcks →
    t.env.rx = s.env.rx ∨ (s.sess.exchanging = true ∧ ∃ b, s.env.rx = b :: t.env.rx)

/-- R63: MUF takes the items of the HEX input oldest first, one a step, each once, and only as the next character of a
line it is reading. -/
def Obligations.HexCharactersAreReadOnceInOrder : Prop :=
  ∀ s t : State, s.env.script = [] → step s = .next t →
    t.env.hx = s.env.hx
      ∨ (s.busy = true ∧ (∃ rest, s.prog = .micro .nextChar :: rest) ∧ ∃ x, s.env.hx = x :: t.env.hx)

/-- R233: while BUSY is 1 no request is taken. -/
def Obligations.RequestsWaitWhileBusy : Prop :=
  ∀ s t : State, s.busy = true → s.env.script = [] → step s = .next t → t.env.reqs = s.env.reqs

/-- R209: an operation ends in exactly one report: a step of MUF either makes no report, or makes one that holds the
status registers, and BUSY is then 0; and BUSY falls in no other way.
The model's own choices in it: log entry 17. -/
def Obligations.OneReportPerOperation : Prop :=
  ∀ s t : State, s.env.script = [] → s.busy = true → step s = .next t →
    (t.out.reports = s.out.reports ∧ t.busy = true)
    ∨ (t.busy = false ∧ t.prog = []
      ∧ t.out.reports = s.out.reports
        ++ [{ cause := t.stCause, sub := t.stSub, exp := t.stExp, act := t.stAct, code := t.stCode, op := t.stOp }])

/-- R32: ANY_FAULT, once set, stays set until reset. -/
def Obligations.AnyFaultIsSticky : Prop :=
  ∀ s t : State, s.anyFault = true → (∀ rest, s.env.script ≠ .env .reset :: rest) → step s = .next t →
    t.anyFault = true

/-- R31, R32: the status registers always hold the values of some completion, from reset on, and those of an error only
with ANY_FAULT set. -/
def Obligations.StatusRegistersStayLegal : Prop :=
  State.reset.StatusLegal ∧ ∀ s t : State, s.StatusLegal → step s = .next t → t.StatusLegal

/-- R29: a step writes BAUD_CUR only in open and in cmd_baud (OP_CUR 0x0 or 0x5), where it is the `BAUD_CUR <- rate` of
the operation and the rate is its argument P[0] (or it is the reset input).
The model's own choices in it: log entry 28. -/
def Obligations.OnlyOpenAndBaudSetTheRate : Prop :=
  ∀ s t : State, s.Inv → (∀ rest, s.env.script ≠ .env .reset :: rest) → step s = .next t →
    t.baudCur = s.baudCur
      ∨ (s.busy = true ∧ (s.opCur = 0x0#4 ∨ s.opCur = 0x5#4) ∧ t.baudCur = s.p0
        ∧ ∃ rest, s.prog = .micro (.setBaud s.p0) :: rest)

/-- R23: a step writes ABASE only as the start of HEXRUN (to 0), taken from the host port, or as the action of an
ExtendedLinearAddress record of two payload bytes (or it is the reset input); and no other instruction writes it. -/
def Obligations.OnlyHexrunAndLinearRecordsSetTheBase : Prop :=
  (∀ s t : State, s.Inv → (∀ rest, s.env.script ≠ .env .reset :: rest) → step s = .next t →
    t.abase = s.abase
      ∨ (s.busy = false ∧ (∃ q rest, s.env.reqs = q :: rest ∧ q.op = 0x9#4) ∧ t.abase = 0#32)
      ∨ (s.busy = true ∧ (∃ rest, s.prog = .act :: rest) ∧ s.recType = 0x04#8
        ∧ ∃ b0 b1, recPayload s = [b0, b1] ∧ t.abase = b0 ++ b1 ++ 0#16))
  ∧ ∀ (i : Instr) (s t : State), exec i s = .next t →
    t.abase = s.abase ∨ (i = .hexrun ∧ t.abase = 0#32)
      ∨ ∃ offset b0 b1, i = .hexExtendedLinearAddress offset [b0, b1] ∧ t.abase = b0 ++ b1 ++ 0#16

/-- R30: a step changes LAST_CMD or LAST_CMD_V only where it sends the first byte of a command frame, which LAST_CMD then
holds, or where it is the `LAST_CMD_V <- 0` of open (or the reset input); and no instruction changes them otherwise.
The model's own choices in it: log entries 3, 28. -/
def Obligations.OnlyOpcodeBytesAreRecorded : Prop :=
  (∀ s t : State, s.Inv → (∀ rest, s.env.script ≠ .env .reset :: rest) → step s = .next t →
    (t.lastCmd = s.lastCmd ∧ t.lastCmdV = s.lastCmdV)
      ∨ (s.busy = true ∧ t.lastCmdV = true ∧ t.out.sent = s.out.sent ++ [t.lastCmd]
        ∧ ∃ i rest params, s.prog = .run i :: rest ∧ frameHeader i = t.lastCmd :: params)
      ∨ (s.busy = true ∧ s.opCur = 0x0#4 ∧ t.lastCmd = s.lastCmd ∧ t.lastCmdV = false
        ∧ ∃ rest, s.prog = .micro .clearLast :: rest))
  ∧ ∀ (i : Instr) (s t : State), exec i s = .next t →
    (t.lastCmd = s.lastCmd ∧ t.lastCmdV = s.lastCmdV)
      ∨ (t.lastCmdV = true ∧ (∃ params, frameHeader i = t.lastCmd :: params)
        ∧ t.out.sent = s.out.sent ++ [t.lastCmd])

/-- R20, R36: the environment, other than by reset, changes no register and no output of MUF.
The model's own choices in it: log entry 4. -/
def Obligations.EnvironmentTouchesOnlyThePorts : Prop :=
  ∀ (s t : State) (a : EnvAct) (rest : List Turn),
    s.env.script = .env a :: rest → a ≠ .reset → step s = .next t → t = { s with env := t.env }
end

