-- ==== Sys2Proof/Laws/Decode.lean ====
section
/-! SUPPORT. The widths of R6 as the types have them, and what the decoder of a response can answer, once. -/

namespace Sys2Proof

/-- R6: W_PARAM is the width of the parameters. -/
theorem Laws.word_has_param_width : Word = BitVec Config.wParam := rfl

/-- R6: W_ABASE is the width of AddressBase. -/
theorem Laws.word_has_abase_width : Word = BitVec Config.wAbase := rfl

/-- R6: W_OFFSET is the width of an offset. -/
theorem Laws.half_has_offset_width : Half = BitVec Config.wOffset := rfl

/-- R95: the error response is two bytes, and one of them alone is not yet a response. -/
@[simp] theorem decodeErrResponse_nil : decodeErrResponse [] = .error .truncated := rfl
@[simp] theorem decodeErrResponse_cons (c : Byte) (rest : List Byte) :
    decodeErrResponse (c :: rest) = .ok .errResponse rest := rfl

/-- R155, R89: what a response-test's first byte decides. -/
theorem decodeTest_cases (next : Byte → List Byte → Decoded) (bytes : List Byte) :
    (bytes = [] ∧ decodeTest next bytes = .error .truncated)
      ∨ (∃ rest, bytes = Config.errInd :: rest ∧ decodeTest next bytes = decodeErrResponse rest)
      ∨ (∃ b rest, bytes = b :: rest ∧ b ≠ Config.errInd ∧ decodeTest next bytes = next b rest) := by
  cases bytes with
  | nil => exact .inl ⟨rfl, rfl⟩
  | cons b rest =>
    by_cases h : b = Config.errInd
    · exact .inr (.inl ⟨rest, by rw [h], by simp [decodeTest, h]⟩)
    · exact .inr (.inr ⟨b, rest, rfl, h, by simp [decodeTest, h]⟩)

/-- R88: the one expected value of an acknowledgement is accepted, alone. -/
theorem decodeAck_expected {expected : Byte} (i : Instr) (rest : List Byte) (h : expected ≠ Config.errInd) :
    decodeAck expected i (expected :: rest) = .ok i rest := by
  simp [decodeAck, decodeTest, h]

/-- R89, R178: at every response-test ERR_IND begins the error response, after the readback bytes too. -/
theorem decodeResponse_errInd (p : RespPoint) (raw : List Byte) (c : Byte) (rest : List Byte)
    (h : match p with
      | .readback size => raw.length = size.toNat
      | _ => raw = []) :
    decodeResponse p (raw ++ Config.errInd :: c :: rest) = .ok .errResponse rest := by
  cases p with
  | readback size =>
    have hl : raw.length = size.toNat := h
    simp [decodeResponse, skipRaw, ← hl, decodeAck, decodeTest]
  | ackOk => cases h; simp [decodeResponse, decodeAck, decodeTest]
  | ackEchoBaud => cases h; simp [decodeResponse, decodeAck, decodeTest]
  | crSequence => cases h; simp [decodeResponse, decodeTest]

end Sys2Proof
end

