-- ==== Sys2Proof/Laws/Memory.lean ====
section
/-! SUPPORT. The payload buffer: a byte written is read back, every other byte is left alone, and the canonical form is
kept by every operation. -/

namespace Sys2Proof.Machine

theorem Memory.read_cons (a : Nat) (v : Byte) (m : Memory) (h : Memory.read m a = Memory.unlisted) (b : Nat) :
    Memory.read (Memory.cons a v m) b = if b = a then v else Memory.read m b := by
  unfold Memory.cons
  by_cases hv : v = Memory.unlisted
  · by_cases hb : b = a
    · subst hb; simp [hv, h]
    · simp [hv, hb]
  · simp [hv, Memory.read]

/-- An index below every cell reads as unlisted. -/
theorem Memory.read_of_lt {lo : Nat} {m : Memory} (h : Memory.wfFrom lo m = true) {a : Nat} (ha : a < lo) :
    Memory.read m a = Memory.unlisted := by
  induction m generalizing lo with
  | nil => rfl
  | cons c m ih =>
    obtain ⟨b, v⟩ := c
    simp only [Memory.wfFrom, Bool.and_eq_true, decide_eq_true_eq] at h
    have hne : a ≠ b := by omega
    simp only [Memory.read, hne, if_false]
    exact ih h.2 (by omega)

theorem Memory.wfFrom_mono {lo lo' : Nat} {m : Memory} (h : Memory.wfFrom lo m = true) (hl : lo' ≤ lo) :
    Memory.wfFrom lo' m = true := by
  cases m with
  | nil => rfl
  | cons c m =>
    obtain ⟨b, v⟩ := c
    simp only [Memory.wfFrom, Bool.and_eq_true, decide_eq_true_eq] at h ⊢
    exact ⟨⟨⟨by omega, h.1.1.2⟩, h.1.2⟩, h.2⟩

theorem Memory.wfFrom_cons {lo a : Nat} {v : Byte} {m : Memory} (hl : lo ≤ a) (ha : a < Config.recPaySize)
    (h : Memory.wfFrom (a + 1) m = true) : Memory.wfFrom lo (Memory.cons a v m) = true := by
  unfold Memory.cons
  by_cases hv : v = Memory.unlisted
  · simpa [hv] using Memory.wfFrom_mono h (by omega)
  · simp [hv, Memory.wfFrom, hl, ha, h]

theorem Memory.wfFrom_write {lo a : Nat} {v : Byte} {m : Memory} (h : Memory.wfFrom lo m = true) (hl : lo ≤ a)
    (ha : a < Config.recPaySize) : Memory.wfFrom lo (Memory.write m a v) = true := by
  induction m generalizing lo with
  | nil => exact Memory.wfFrom_cons hl ha rfl
  | cons c m ih =>
    obtain ⟨b, w⟩ := c
    have h' := h
    simp only [Memory.wfFrom, Bool.and_eq_true, decide_eq_true_eq] at h
    obtain ⟨⟨⟨hb, hb'⟩, hw⟩, hm⟩ := h
    unfold Memory.write
    by_cases h1 : a < b
    · simp only [h1, if_true]
      exact Memory.wfFrom_cons hl ha (by simp [Memory.wfFrom, hb', hm]; exact ⟨by omega, by simpa using hw⟩)
    · simp only [h1, if_false]
      by_cases h2 : a = b
      · subst h2
        simpa using Memory.wfFrom_cons hl ha hm
      · simp only [h2, if_false, Memory.wfFrom, Bool.and_eq_true, decide_eq_true_eq]
        exact ⟨⟨⟨hb, hb'⟩, hw⟩, ih hm (by omega)⟩

/-- A write inside the buffer keeps the canonical form. -/
theorem Memory.wf_write {m : Memory} (h : Memory.wf m = true) {a : Nat} (ha : a < Config.recPaySize) (v : Byte) :
    Memory.wf (Memory.write m a v) = true :=
  Memory.wfFrom_write h (Nat.zero_le _) ha

theorem Memory.read_write_from {lo : Nat} {m : Memory} (h : Memory.wfFrom lo m = true) (a : Nat) (v : Byte) (b : Nat) :
    Memory.read (Memory.write m a v) b = if b = a then v else Memory.read m b := by
  induction m generalizing lo with
  | nil => exact Memory.read_cons a v [] rfl b
  | cons c m ih =>
    obtain ⟨c, w⟩ := c
    have h' := h
    simp only [Memory.wfFrom, Bool.and_eq_true, decide_eq_true_eq] at h
    obtain ⟨⟨⟨hc, -⟩, -⟩, hm⟩ := h
    unfold Memory.write
    by_cases h1 : a < c
    · simp only [h1, if_true]
      refine Memory.read_cons a v _ ?_ b
      have : a ≠ c := by omega
      simp only [Memory.read, this, if_false]
      exact Memory.read_of_lt hm (by omega)
    · simp only [h1, if_false]
      by_cases h2 : a = c
      · subst h2
        simp only [if_true]
        rw [Memory.read_cons a v m (Memory.read_of_lt hm (by omega)) b]
        by_cases hb : b = a <;> simp [Memory.read, hb]
      · simp only [h2, if_false, Memory.read, ih hm]
        by_cases hb : b = c
        · subst hb; simp [Ne.symm h2]
        · simp [hb]

/-- Read after write. -/
theorem Memory.read_write {m : Memory} (h : Memory.wf m = true) (a : Nat) (v : Byte) (b : Nat) :
    Memory.read (Memory.write m a v) b = if b = a then v else Memory.read m b :=
  Memory.read_write_from h a v b

/-- Writing bytes inside the buffer keeps the canonical form. -/
theorem Memory.wf_writeBytes {m : Memory} (h : Memory.wf m = true) {i : Nat} {vs : List Byte}
    (hi : i + vs.length ≤ Config.recPaySize) : Memory.wf (Memory.writeBytes m i vs) = true := by
  induction vs generalizing m i with
  | nil => exact h
  | cons v vs ih =>
    simp only [List.length_cons] at hi
    exact ih (Memory.wf_write h (by omega) v) (by omega)

/-- What reading finds after bytes are written: the byte written there, else what stood there. -/
theorem Memory.read_writeBytes {m : Memory} (h : Memory.wf m = true) {i : Nat} {vs : List Byte}
    (hi : i + vs.length ≤ Config.recPaySize) (a : Nat) :
    Memory.read (Memory.writeBytes m i vs) a
      = if i ≤ a ∧ a < i + vs.length then vs.getD (a - i) 0#8 else Memory.read m a := by
  induction vs generalizing m i with
  | nil => simp [Memory.writeBytes]
  | cons v vs ih =>
    simp only [List.length_cons] at hi ⊢
    rw [Memory.writeBytes, ih (Memory.wf_write h (by omega) v) (by omega), Memory.read_write h]
    by_cases ha : a = i
    · subst ha
      simp
    · by_cases hr : i + 1 ≤ a ∧ a < i + 1 + vs.length
      · have h3 : i ≤ a ∧ a < i + (vs.length + 1) := by omega
        have h4 : a - i = (a - (i + 1)) + 1 := by omega
        simp [hr, h3, h4]
      · have h3 : ¬(i ≤ a ∧ a < i + (vs.length + 1)) := by omega
        simp only [hr, h3, ha, if_false]

/-- Reading back the bytes just written. -/
theorem Memory.readBytes_writeBytes {m : Memory} (h : Memory.wf m = true) {vs : List Byte}
    (hi : vs.length ≤ Config.recPaySize) :
    Memory.readBytes (Memory.writeBytes m 0 vs) 0 vs.length = vs := by
  have key : ∀ (ws : List Byte) (i : Nat) (m' : Memory),
      (∀ k, k < ws.length → Memory.read m' (i + k) = ws.getD k 0#8) →
      Memory.readBytes m' i ws.length = ws := by
    intro ws
    induction ws with
    | nil => intro i m' _; rfl
    | cons w ws ih =>
      intro i m' hk
      have h0 := hk 0 (by simp)
      simp only [List.length_cons, Memory.readBytes]
      congr 1
      refine ih (i + 1) m' fun k hk' => ?_
      have := hk (k + 1) (by simpa using hk')
      simpa [Nat.add_assoc, Nat.add_comm 1] using this
  refine key vs 0 _ fun k hk => ?_
  rw [Memory.read_writeBytes h (by omega)]
  simp [hk]

end Sys2Proof.Machine
end

