-- ==== Sys2Proof/Laws/State.lean ====
section
/-! SUPPORT. What each update of the state does to each field: one lemma per field per update. -/

namespace Sys2Proof.Machine

variable (s : State)

/-! ## `hold` -/

@[simp] theorem hold_recLen (st : Stmt) : (hold st s).recLen = s.recLen := rfl
@[simp] theorem hold_recOff (st : Stmt) : (hold st s).recOff = s.recOff := rfl
@[simp] theorem hold_recType (st : Stmt) : (hold st s).recType = s.recType := rfl
@[simp] theorem hold_recPay (st : Stmt) : (hold st s).recPay = s.recPay := rfl
@[simp] theorem hold_recCks (st : Stmt) : (hold st s).recCks = s.recCks := rfl
@[simp] theorem hold_cksAcc (st : Stmt) : (hold st s).cksAcc = s.cksAcc := rfl
@[simp] theorem hold_lineBuf (st : Stmt) : (hold st s).lineBuf = s.lineBuf := rfl
@[simp] theorem hold_lineOvf (st : Stmt) : (hold st s).lineOvf = s.lineOvf := rfl
@[simp] theorem hold_abase (st : Stmt) : (hold st s).abase = s.abase := rfl
@[simp] theorem hold_hsActive (st : Stmt) : (hold st s).hsActive = s.hsActive := rfl
@[simp] theorem hold_eofSeen (st : Stmt) : (hold st s).eofSeen = s.eofSeen := rfl
@[simp] theorem hold_p0 (st : Stmt) : (hold st s).p0 = s.p0 := rfl
@[simp] theorem hold_p1 (st : Stmt) : (hold st s).p1 = s.p1 := rfl
@[simp] theorem hold_cnt (st : Stmt) : (hold st s).cnt = s.cnt := rfl
@[simp] theorem hold_rtByte (st : Stmt) : (hold st s).rtByte = s.rtByte := rfl
@[simp] theorem hold_rd2Lf (st : Stmt) : (hold st s).rd2Lf = s.rd2Lf := rfl
@[simp] theorem hold_rd2Prompt (st : Stmt) : (hold st s).rd2Prompt = s.rd2Prompt := rfl
@[simp] theorem hold_sess (st : Stmt) : (hold st s).sess = s.sess := rfl
@[simp] theorem hold_baudCur (st : Stmt) : (hold st s).baudCur = s.baudCur := rfl
@[simp] theorem hold_lastCmd (st : Stmt) : (hold st s).lastCmd = s.lastCmd := rfl
@[simp] theorem hold_lastCmdV (st : Stmt) : (hold st s).lastCmdV = s.lastCmdV := rfl
@[simp] theorem hold_busy (st : Stmt) : (hold st s).busy = s.busy := rfl
@[simp] theorem hold_opCur (st : Stmt) : (hold st s).opCur = s.opCur := rfl
@[simp] theorem hold_prog (st : Stmt) : (hold st s).prog = st :: s.prog := rfl
@[simp] theorem hold_stCause (st : Stmt) : (hold st s).stCause = s.stCause := rfl
@[simp] theorem hold_stSub (st : Stmt) : (hold st s).stSub = s.stSub := rfl
@[simp] theorem hold_stExp (st : Stmt) : (hold st s).stExp = s.stExp := rfl
@[simp] theorem hold_stAct (st : Stmt) : (hold st s).stAct = s.stAct := rfl
@[simp] theorem hold_stCode (st : Stmt) : (hold st s).stCode = s.stCode := rfl
@[simp] theorem hold_stOp (st : Stmt) : (hold st s).stOp = s.stOp := rfl
@[simp] theorem hold_anyFault (st : Stmt) : (hold st s).anyFault = s.anyFault := rfl
@[simp] theorem hold_winCnt (st : Stmt) : (hold st s).winCnt = s.winCnt := rfl
@[simp] theorem hold_freeCtr (st : Stmt) : (hold st s).freeCtr = s.freeCtr := rfl
@[simp] theorem hold_env (st : Stmt) : (hold st s).env = s.env := rfl
@[simp] theorem hold_out (st : Stmt) : (hold st s).out = s.out := rfl

/-! ## `push` -/

@[simp] theorem push_recLen (l : List Stmt) : (push l s).recLen = s.recLen := rfl
@[simp] theorem push_recOff (l : List Stmt) : (push l s).recOff = s.recOff := rfl
@[simp] theorem push_recType (l : List Stmt) : (push l s).recType = s.recType := rfl
@[simp] theorem push_recPay (l : List Stmt) : (push l s).recPay = s.recPay := rfl
@[simp] theorem push_recCks (l : List Stmt) : (push l s).recCks = s.recCks := rfl
@[simp] theorem push_cksAcc (l : List Stmt) : (push l s).cksAcc = s.cksAcc := rfl
@[simp] theorem push_lineBuf (l : List Stmt) : (push l s).lineBuf = s.lineBuf := rfl
@[simp] theorem push_lineOvf (l : List Stmt) : (push l s).lineOvf = s.lineOvf := rfl
@[simp] theorem push_abase (l : List Stmt) : (push l s).abase = s.abase := rfl
@[simp] theorem push_hsActive (l : List Stmt) : (push l s).hsActive = s.hsActive := rfl
@[simp] theorem push_eofSeen (l : List Stmt) : (push l s).eofSeen = s.eofSeen := rfl
@[simp] theorem push_p0 (l : List Stmt) : (push l s).p0 = s.p0 := rfl
@[simp] theorem push_p1 (l : List Stmt) : (push l s).p1 = s.p1 := rfl
@[simp] theorem push_cnt (l : List Stmt) : (push l s).cnt = s.cnt := rfl
@[simp] theorem push_rtByte (l : List Stmt) : (push l s).rtByte = s.rtByte := rfl
@[simp] theorem push_rd2Lf (l : List Stmt) : (push l s).rd2Lf = s.rd2Lf := rfl
@[simp] theorem push_rd2Prompt (l : List Stmt) : (push l s).rd2Prompt = s.rd2Prompt := rfl
@[simp] theorem push_sess (l : List Stmt) : (push l s).sess = s.sess := rfl
@[simp] theorem push_baudCur (l : List Stmt) : (push l s).baudCur = s.baudCur := rfl
@[simp] theorem push_lastCmd (l : List Stmt) : (push l s).lastCmd = s.lastCmd := rfl
@[simp] theorem push_lastCmdV (l : List Stmt) : (push l s).lastCmdV = s.lastCmdV := rfl
@[simp] theorem push_busy (l : List Stmt) : (push l s).busy = s.busy := rfl
@[simp] theorem push_opCur (l : List Stmt) : (push l s).opCur = s.opCur := rfl
@[simp] theorem push_prog (l : List Stmt) : (push l s).prog = l ++ s.prog := rfl
@[simp] theorem push_stCause (l : List Stmt) : (push l s).stCause = s.stCause := rfl
@[simp] theorem push_stSub (l : List Stmt) : (push l s).stSub = s.stSub := rfl
@[simp] theorem push_stExp (l : List Stmt) : (push l s).stExp = s.stExp := rfl
@[simp] theorem push_stAct (l : List Stmt) : (push l s).stAct = s.stAct := rfl
@[simp] theorem push_stCode (l : List Stmt) : (push l s).stCode = s.stCode := rfl
@[simp] theorem push_stOp (l : List Stmt) : (push l s).stOp = s.stOp := rfl
@[simp] theorem push_anyFault (l : List Stmt) : (push l s).anyFault = s.anyFault := rfl
@[simp] theorem push_winCnt (l : List Stmt) : (push l s).winCnt = s.winCnt := rfl
@[simp] theorem push_freeCtr (l : List Stmt) : (push l s).freeCtr = s.freeCtr := rfl
@[simp] theorem push_env (l : List Stmt) : (push l s).env = s.env := rfl
@[simp] theorem push_out (l : List Stmt) : (push l s).out = s.out := rfl

/-! ## `jump` -/

@[simp] theorem jump_recLen (l : List Stmt) : (jump l s).recLen = s.recLen := rfl
@[simp] theorem jump_recOff (l : List Stmt) : (jump l s).recOff = s.recOff := rfl
@[simp] theorem jump_recType (l : List Stmt) : (jump l s).recType = s.recType := rfl
@[simp] theorem jump_recPay (l : List Stmt) : (jump l s).recPay = s.recPay := rfl
@[simp] theorem jump_recCks (l : List Stmt) : (jump l s).recCks = s.recCks := rfl
@[simp] theorem jump_cksAcc (l : List Stmt) : (jump l s).cksAcc = s.cksAcc := rfl
@[simp] theorem jump_lineBuf (l : List Stmt) : (jump l s).lineBuf = s.lineBuf := rfl
@[simp] theorem jump_lineOvf (l : List Stmt) : (jump l s).lineOvf = s.lineOvf := rfl
@[simp] theorem jump_abase (l : List Stmt) : (jump l s).abase = s.abase := rfl
@[simp] theorem jump_hsActive (l : List Stmt) : (jump l s).hsActive = s.hsActive := rfl
@[simp] theorem jump_eofSeen (l : List Stmt) : (jump l s).eofSeen = s.eofSeen := rfl
@[simp] theorem jump_p0 (l : List Stmt) : (jump l s).p0 = s.p0 := rfl
@[simp] theorem jump_p1 (l : List Stmt) : (jump l s).p1 = s.p1 := rfl
@[simp] theorem jump_cnt (l : List Stmt) : (jump l s).cnt = s.cnt := rfl
@[simp] theorem jump_rtByte (l : List Stmt) : (jump l s).rtByte = s.rtByte := rfl
@[simp] theorem jump_rd2Lf (l : List Stmt) : (jump l s).rd2Lf = s.rd2Lf := rfl
@[simp] theorem jump_rd2Prompt (l : List Stmt) : (jump l s).rd2Prompt = s.rd2Prompt := rfl
@[simp] theorem jump_sess (l : List Stmt) : (jump l s).sess = s.sess := rfl
@[simp] theorem jump_baudCur (l : List Stmt) : (jump l s).baudCur = s.baudCur := rfl
@[simp] theorem jump_lastCmd (l : List Stmt) : (jump l s).lastCmd = s.lastCmd := rfl
@[simp] theorem jump_lastCmdV (l : List Stmt) : (jump l s).lastCmdV = s.lastCmdV := rfl
@[simp] theorem jump_busy (l : List Stmt) : (jump l s).busy = s.busy := rfl
@[simp] theorem jump_opCur (l : List Stmt) : (jump l s).opCur = s.opCur := rfl
@[simp] theorem jump_prog (l : List Stmt) : (jump l s).prog = l := rfl
@[simp] theorem jump_stCause (l : List Stmt) : (jump l s).stCause = s.stCause := rfl
@[simp] theorem jump_stSub (l : List Stmt) : (jump l s).stSub = s.stSub := rfl
@[simp] theorem jump_stExp (l : List Stmt) : (jump l s).stExp = s.stExp := rfl
@[simp] theorem jump_stAct (l : List Stmt) : (jump l s).stAct = s.stAct := rfl
@[simp] theorem jump_stCode (l : List Stmt) : (jump l s).stCode = s.stCode := rfl
@[simp] theorem jump_stOp (l : List Stmt) : (jump l s).stOp = s.stOp := rfl
@[simp] theorem jump_anyFault (l : List Stmt) : (jump l s).anyFault = s.anyFault := rfl
@[simp] theorem jump_winCnt (l : List Stmt) : (jump l s).winCnt = s.winCnt := rfl
@[simp] theorem jump_freeCtr (l : List Stmt) : (jump l s).freeCtr = s.freeCtr := rfl
@[simp] theorem jump_env (l : List Stmt) : (jump l s).env = s.env := rfl
@[simp] theorem jump_out (l : List Stmt) : (jump l s).out = s.out := rfl

/-! ## `setSess` -/

@[simp] theorem setSess_recLen (x : Sess) : (setSess x s).recLen = s.recLen := rfl
@[simp] theorem setSess_recOff (x : Sess) : (setSess x s).recOff = s.recOff := rfl
@[simp] theorem setSess_recType (x : Sess) : (setSess x s).recType = s.recType := rfl
@[simp] theorem setSess_recPay (x : Sess) : (setSess x s).recPay = s.recPay := rfl
@[simp] theorem setSess_recCks (x : Sess) : (setSess x s).recCks = s.recCks := rfl
@[simp] theorem setSess_cksAcc (x : Sess) : (setSess x s).cksAcc = s.cksAcc := rfl
@[simp] theorem setSess_lineBuf (x : Sess) : (setSess x s).lineBuf = s.lineBuf := rfl
@[simp] theorem setSess_lineOvf (x : Sess) : (setSess x s).lineOvf = s.lineOvf := rfl
@[simp] theorem setSess_abase (x : Sess) : (setSess x s).abase = s.abase := rfl
@[simp] theorem setSess_hsActive (x : Sess) : (setSess x s).hsActive = s.hsActive := rfl
@[simp] theorem setSess_eofSeen (x : Sess) : (setSess x s).eofSeen = s.eofSeen := rfl
@[simp] theorem setSess_p0 (x : Sess) : (setSess x s).p0 = s.p0 := rfl
@[simp] theorem setSess_p1 (x : Sess) : (setSess x s).p1 = s.p1 := rfl
@[simp] theorem setSess_cnt (x : Sess) : (setSess x s).cnt = s.cnt := rfl
@[simp] theorem setSess_rtByte (x : Sess) : (setSess x s).rtByte = s.rtByte := rfl
@[simp] theorem setSess_rd2Lf (x : Sess) : (setSess x s).rd2Lf = s.rd2Lf := rfl
@[simp] theorem setSess_rd2Prompt (x : Sess) : (setSess x s).rd2Prompt = s.rd2Prompt := rfl
@[simp] theorem setSess_sess (x : Sess) : (setSess x s).sess = x := rfl
@[simp] theorem setSess_baudCur (x : Sess) : (setSess x s).baudCur = s.baudCur := rfl
@[simp] theorem setSess_lastCmd (x : Sess) : (setSess x s).lastCmd = s.lastCmd := rfl
@[simp] theorem setSess_lastCmdV (x : Sess) : (setSess x s).lastCmdV = s.lastCmdV := rfl
@[simp] theorem setSess_busy (x : Sess) : (setSess x s).busy = s.busy := rfl
@[simp] theorem setSess_opCur (x : Sess) : (setSess x s).opCur = s.opCur := rfl
@[simp] theorem setSess_prog (x : Sess) : (setSess x s).prog = s.prog := rfl
@[simp] theorem setSess_stCause (x : Sess) : (setSess x s).stCause = s.stCause := rfl
@[simp] theorem setSess_stSub (x : Sess) : (setSess x s).stSub = s.stSub := rfl
@[simp] theorem setSess_stExp (x : Sess) : (setSess x s).stExp = s.stExp := rfl
@[simp] theorem setSess_stAct (x : Sess) : (setSess x s).stAct = s.stAct := rfl
@[simp] theorem setSess_stCode (x : Sess) : (setSess x s).stCode = s.stCode := rfl
@[simp] theorem setSess_stOp (x : Sess) : (setSess x s).stOp = s.stOp := rfl
@[simp] theorem setSess_anyFault (x : Sess) : (setSess x s).anyFault = s.anyFault := rfl
@[simp] theorem setSess_winCnt (x : Sess) : (setSess x s).winCnt = s.winCnt := rfl
@[simp] theorem setSess_freeCtr (x : Sess) : (setSess x s).freeCtr = s.freeCtr := rfl
@[simp] theorem setSess_env (x : Sess) : (setSess x s).env = s.env := rfl
@[simp] theorem setSess_out (x : Sess) : (setSess x s).out = s.out := rfl

/-! ## `emit` -/

@[simp] theorem emit_recLen (o : TpOut) : (emit o s).recLen = s.recLen := rfl
@[simp] theorem emit_recOff (o : TpOut) : (emit o s).recOff = s.recOff := rfl
@[simp] theorem emit_recType (o : TpOut) : (emit o s).recType = s.recType := rfl
@[simp] theorem emit_recPay (o : TpOut) : (emit o s).recPay = s.recPay := rfl
@[simp] theorem emit_recCks (o : TpOut) : (emit o s).recCks = s.recCks := rfl
@[simp] theorem emit_cksAcc (o : TpOut) : (emit o s).cksAcc = s.cksAcc := rfl
@[simp] theorem emit_lineBuf (o : TpOut) : (emit o s).lineBuf = s.lineBuf := rfl
@[simp] theorem emit_lineOvf (o : TpOut) : (emit o s).lineOvf = s.lineOvf := rfl
@[simp] theorem emit_abase (o : TpOut) : (emit o s).abase = s.abase := rfl
@[simp] theorem emit_hsActive (o : TpOut) : (emit o s).hsActive = s.hsActive := rfl
@[simp] theorem emit_eofSeen (o : TpOut) : (emit o s).eofSeen = s.eofSeen := rfl
@[simp] theorem emit_p0 (o : TpOut) : (emit o s).p0 = s.p0 := rfl
@[simp] theorem emit_p1 (o : TpOut) : (emit o s).p1 = s.p1 := rfl
@[simp] theorem emit_cnt (o : TpOut) : (emit o s).cnt = s.cnt := rfl
@[simp] theorem emit_rtByte (o : TpOut) : (emit o s).rtByte = s.rtByte := rfl
@[simp] theorem emit_rd2Lf (o : TpOut) : (emit o s).rd2Lf = s.rd2Lf := rfl
@[simp] theorem emit_rd2Prompt (o : TpOut) : (emit o s).rd2Prompt = s.rd2Prompt := rfl
@[simp] theorem emit_sess (o : TpOut) : (emit o s).sess = s.sess := rfl
@[simp] theorem emit_baudCur (o : TpOut) : (emit o s).baudCur = s.baudCur := rfl
@[simp] theorem emit_lastCmd (o : TpOut) : (emit o s).lastCmd = s.lastCmd := rfl
@[simp] theorem emit_lastCmdV (o : TpOut) : (emit o s).lastCmdV = s.lastCmdV := rfl
@[simp] theorem emit_busy (o : TpOut) : (emit o s).busy = s.busy := rfl
@[simp] theorem emit_opCur (o : TpOut) : (emit o s).opCur = s.opCur := rfl
@[simp] theorem emit_prog (o : TpOut) : (emit o s).prog = s.prog := rfl
@[simp] theorem emit_stCause (o : TpOut) : (emit o s).stCause = s.stCause := rfl
@[simp] theorem emit_stSub (o : TpOut) : (emit o s).stSub = s.stSub := rfl
@[simp] theorem emit_stExp (o : TpOut) : (emit o s).stExp = s.stExp := rfl
@[simp] theorem emit_stAct (o : TpOut) : (emit o s).stAct = s.stAct := rfl
@[simp] theorem emit_stCode (o : TpOut) : (emit o s).stCode = s.stCode := rfl
@[simp] theorem emit_stOp (o : TpOut) : (emit o s).stOp = s.stOp := rfl
@[simp] theorem emit_anyFault (o : TpOut) : (emit o s).anyFault = s.anyFault := rfl
@[simp] theorem emit_winCnt (o : TpOut) : (emit o s).winCnt = s.winCnt := rfl
@[simp] theorem emit_freeCtr (o : TpOut) : (emit o s).freeCtr = s.freeCtr := rfl
@[simp] theorem emit_env (o : TpOut) : (emit o s).env = s.env := rfl
@[simp] theorem emit_out (o : TpOut) : (emit o s).out = { s.out with tp := s.out.tp ++ [o] } := rfl

/-! ## `recordCmd` -/

@[simp] theorem recordCmd_recLen (op : Byte) : (recordCmd op s).recLen = s.recLen := rfl
@[simp] theorem recordCmd_recOff (op : Byte) : (recordCmd op s).recOff = s.recOff := rfl
@[simp] theorem recordCmd_recType (op : Byte) : (recordCmd op s).recType = s.recType := rfl
@[simp] theorem recordCmd_recPay (op : Byte) : (recordCmd op s).recPay = s.recPay := rfl
@[simp] theorem recordCmd_recCks (op : Byte) : (recordCmd op s).recCks = s.recCks := rfl
@[simp] theorem recordCmd_cksAcc (op : Byte) : (recordCmd op s).cksAcc = s.cksAcc := rfl
@[simp] theorem recordCmd_lineBuf (op : Byte) : (recordCmd op s).lineBuf = s.lineBuf := rfl
@[simp] theorem recordCmd_lineOvf (op : Byte) : (recordCmd op s).lineOvf = s.lineOvf := rfl
@[simp] theorem recordCmd_abase (op : Byte) : (recordCmd op s).abase = s.abase := rfl
@[simp] theorem recordCmd_hsActive (op : Byte) : (recordCmd op s).hsActive = s.hsActive := rfl
@[simp] theorem recordCmd_eofSeen (op : Byte) : (recordCmd op s).eofSeen = s.eofSeen := rfl
@[simp] theorem recordCmd_p0 (op : Byte) : (recordCmd op s).p0 = s.p0 := rfl
@[simp] theorem recordCmd_p1 (op : Byte) : (recordCmd op s).p1 = s.p1 := rfl
@[simp] theorem recordCmd_cnt (op : Byte) : (recordCmd op s).cnt = s.cnt := rfl
@[simp] theorem recordCmd_rtByte (op : Byte) : (recordCmd op s).rtByte = s.rtByte := rfl
@[simp] theorem recordCmd_rd2Lf (op : Byte) : (recordCmd op s).rd2Lf = s.rd2Lf := rfl
@[simp] theorem recordCmd_rd2Prompt (op : Byte) : (recordCmd op s).rd2Prompt = s.rd2Prompt := rfl
@[simp] theorem recordCmd_sess (op : Byte) : (recordCmd op s).sess = s.sess := rfl
@[simp] theorem recordCmd_baudCur (op : Byte) : (recordCmd op s).baudCur = s.baudCur := rfl
@[simp] theorem recordCmd_lastCmd (op : Byte) : (recordCmd op s).lastCmd = op := rfl
@[simp] theorem recordCmd_lastCmdV (op : Byte) : (recordCmd op s).lastCmdV = true := rfl
@[simp] theorem recordCmd_busy (op : Byte) : (recordCmd op s).busy = s.busy := rfl
@[simp] theorem recordCmd_opCur (op : Byte) : (recordCmd op s).opCur = s.opCur := rfl
@[simp] theorem recordCmd_prog (op : Byte) : (recordCmd op s).prog = s.prog := rfl
@[simp] theorem recordCmd_stCause (op : Byte) : (recordCmd op s).stCause = s.stCause := rfl
@[simp] theorem recordCmd_stSub (op : Byte) : (recordCmd op s).stSub = s.stSub := rfl
@[simp] theorem recordCmd_stExp (op : Byte) : (recordCmd op s).stExp = s.stExp := rfl
@[simp] theorem recordCmd_stAct (op : Byte) : (recordCmd op s).stAct = s.stAct := rfl
@[simp] theorem recordCmd_stCode (op : Byte) : (recordCmd op s).stCode = s.stCode := rfl
@[simp] theorem recordCmd_stOp (op : Byte) : (recordCmd op s).stOp = s.stOp := rfl
@[simp] theorem recordCmd_anyFault (op : Byte) : (recordCmd op s).anyFault = s.anyFault := rfl
@[simp] theorem recordCmd_winCnt (op : Byte) : (recordCmd op s).winCnt = s.winCnt := rfl
@[simp] theorem recordCmd_freeCtr (op : Byte) : (recordCmd op s).freeCtr = s.freeCtr := rfl
@[simp] theorem recordCmd_env (op : Byte) : (recordCmd op s).env = s.env := rfl
@[simp] theorem recordCmd_out (op : Byte) : (recordCmd op s).out = s.out := rfl

/-! ## `clearLastCmd` -/

@[simp] theorem clearLastCmd_recLen : (clearLastCmd s).recLen = s.recLen := rfl
@[simp] theorem clearLastCmd_recOff : (clearLastCmd s).recOff = s.recOff := rfl
@[simp] theorem clearLastCmd_recType : (clearLastCmd s).recType = s.recType := rfl
@[simp] theorem clearLastCmd_recPay : (clearLastCmd s).recPay = s.recPay := rfl
@[simp] theorem clearLastCmd_recCks : (clearLastCmd s).recCks = s.recCks := rfl
@[simp] theorem clearLastCmd_cksAcc : (clearLastCmd s).cksAcc = s.cksAcc := rfl
@[simp] theorem clearLastCmd_lineBuf : (clearLastCmd s).lineBuf = s.lineBuf := rfl
@[simp] theorem clearLastCmd_lineOvf : (clearLastCmd s).lineOvf = s.lineOvf := rfl
@[simp] theorem clearLastCmd_abase : (clearLastCmd s).abase = s.abase := rfl
@[simp] theorem clearLastCmd_hsActive : (clearLastCmd s).hsActive = s.hsActive := rfl
@[simp] theorem clearLastCmd_eofSeen : (clearLastCmd s).eofSeen = s.eofSeen := rfl
@[simp] theorem clearLastCmd_p0 : (clearLastCmd s).p0 = s.p0 := rfl
@[simp] theorem clearLastCmd_p1 : (clearLastCmd s).p1 = s.p1 := rfl
@[simp] theorem clearLastCmd_cnt : (clearLastCmd s).cnt = s.cnt := rfl
@[simp] theorem clearLastCmd_rtByte : (clearLastCmd s).rtByte = s.rtByte := rfl
@[simp] theorem clearLastCmd_rd2Lf : (clearLastCmd s).rd2Lf = s.rd2Lf := rfl
@[simp] theorem clearLastCmd_rd2Prompt : (clearLastCmd s).rd2Prompt = s.rd2Prompt := rfl
@[simp] theorem clearLastCmd_sess : (clearLastCmd s).sess = s.sess := rfl
@[simp] theorem clearLastCmd_baudCur : (clearLastCmd s).baudCur = s.baudCur := rfl
@[simp] theorem clearLastCmd_lastCmd : (clearLastCmd s).lastCmd = s.lastCmd := rfl
@[simp] theorem clearLastCmd_lastCmdV : (clearLastCmd s).lastCmdV = false := rfl
@[simp] theorem clearLastCmd_busy : (clearLastCmd s).busy = s.busy := rfl
@[simp] theorem clearLastCmd_opCur : (clearLastCmd s).opCur = s.opCur := rfl
@[simp] theorem clearLastCmd_prog : (clearLastCmd s).prog = s.prog := rfl
@[simp] theorem clearLastCmd_stCause : (clearLastCmd s).stCause = s.stCause := rfl
@[simp] theorem clearLastCmd_stSub : (clearLastCmd s).stSub = s.stSub := rfl
@[simp] theorem clearLastCmd_stExp : (clearLastCmd s).stExp = s.stExp := rfl
@[simp] theorem clearLastCmd_stAct : (clearLastCmd s).stAct = s.stAct := rfl
@[simp] theorem clearLastCmd_stCode : (clearLastCmd s).stCode = s.stCode := rfl
@[simp] theorem clearLastCmd_stOp : (clearLastCmd s).stOp = s.stOp := rfl
@[simp] theorem clearLastCmd_anyFault : (clearLastCmd s).anyFault = s.anyFault := rfl
@[simp] theorem clearLastCmd_winCnt : (clearLastCmd s).winCnt = s.winCnt := rfl
@[simp] theorem clearLastCmd_freeCtr : (clearLastCmd s).freeCtr = s.freeCtr := rfl
@[simp] theorem clearLastCmd_env : (clearLastCmd s).env = s.env := rfl
@[simp] theorem clearLastCmd_out : (clearLastCmd s).out = s.out := rfl

/-! ## `setFault` -/

@[simp] theorem setFault_recLen : (setFault s).recLen = s.recLen := rfl
@[simp] theorem setFault_recOff : (setFault s).recOff = s.recOff := rfl
@[simp] theorem setFault_recType : (setFault s).recType = s.recType := rfl
@[simp] theorem setFault_recPay : (setFault s).recPay = s.recPay := rfl
@[simp] theorem setFault_recCks : (setFault s).recCks = s.recCks := rfl
@[simp] theorem setFault_cksAcc : (setFault s).cksAcc = s.cksAcc := rfl
@[simp] theorem setFault_lineBuf : (setFault s).lineBuf = s.lineBuf := rfl
@[simp] theorem setFault_lineOvf : (setFault s).lineOvf = s.lineOvf := rfl
@[simp] theorem setFault_abase : (setFault s).abase = s.abase := rfl
@[simp] theorem setFault_hsActive : (setFault s).hsActive = s.hsActive := rfl
@[simp] theorem setFault_eofSeen : (setFault s).eofSeen = s.eofSeen := rfl
@[simp] theorem setFault_p0 : (setFault s).p0 = s.p0 := rfl
@[simp] theorem setFault_p1 : (setFault s).p1 = s.p1 := rfl
@[simp] theorem setFault_cnt : (setFault s).cnt = s.cnt := rfl
@[simp] theorem setFault_rtByte : (setFault s).rtByte = s.rtByte := rfl
@[simp] theorem setFault_rd2Lf : (setFault s).rd2Lf = s.rd2Lf := rfl
@[simp] theorem setFault_rd2Prompt : (setFault s).rd2Prompt = s.rd2Prompt := rfl
@[simp] theorem setFault_sess : (setFault s).sess = s.sess := rfl
@[simp] theorem setFault_baudCur : (setFault s).baudCur = s.baudCur := rfl
@[simp] theorem setFault_lastCmd : (setFault s).lastCmd = s.lastCmd := rfl
@[simp] theorem setFault_lastCmdV : (setFault s).lastCmdV = s.lastCmdV := rfl
@[simp] theorem setFault_busy : (setFault s).busy = s.busy := rfl
@[simp] theorem setFault_opCur : (setFault s).opCur = s.opCur := rfl
@[simp] theorem setFault_prog : (setFault s).prog = s.prog := rfl
@[simp] theorem setFault_stCause : (setFault s).stCause = s.stCause := rfl
@[simp] theorem setFault_stSub : (setFault s).stSub = s.stSub := rfl
@[simp] theorem setFault_stExp : (setFault s).stExp = s.stExp := rfl
@[simp] theorem setFault_stAct : (setFault s).stAct = s.stAct := rfl
@[simp] theorem setFault_stCode : (setFault s).stCode = s.stCode := rfl
@[simp] theorem setFault_stOp : (setFault s).stOp = s.stOp := rfl
@[simp] theorem setFault_anyFault : (setFault s).anyFault = true := rfl
@[simp] theorem setFault_winCnt : (setFault s).winCnt = s.winCnt := rfl
@[simp] theorem setFault_freeCtr : (setFault s).freeCtr = s.freeCtr := rfl
@[simp] theorem setFault_env : (setFault s).env = s.env := rfl
@[simp] theorem setFault_out : (setFault s).out = s.out := rfl

/-! ## `releaseHex` -/

@[simp] theorem releaseHex_recLen : (releaseHex s).recLen = s.recLen := rfl
@[simp] theorem releaseHex_recOff : (releaseHex s).recOff = s.recOff := rfl
@[simp] theorem releaseHex_recType : (releaseHex s).recType = s.recType := rfl
@[simp] theorem releaseHex_recPay : (releaseHex s).recPay = s.recPay := rfl
@[simp] theorem releaseHex_recCks : (releaseHex s).recCks = s.recCks := rfl
@[simp] theorem releaseHex_cksAcc : (releaseHex s).cksAcc = s.cksAcc := rfl
@[simp] theorem releaseHex_lineBuf : (releaseHex s).lineBuf = s.lineBuf := rfl
@[simp] theorem releaseHex_lineOvf : (releaseHex s).lineOvf = s.lineOvf := rfl
@[simp] theorem releaseHex_abase : (releaseHex s).abase = s.abase := rfl
@[simp] theorem releaseHex_hsActive : (releaseHex s).hsActive = false := rfl
@[simp] theorem releaseHex_eofSeen : (releaseHex s).eofSeen = s.eofSeen := rfl
@[simp] theorem releaseHex_p0 : (releaseHex s).p0 = s.p0 := rfl
@[simp] theorem releaseHex_p1 : (releaseHex s).p1 = s.p1 := rfl
@[simp] theorem releaseHex_cnt : (releaseHex s).cnt = s.cnt := rfl
@[simp] theorem releaseHex_rtByte : (releaseHex s).rtByte = s.rtByte := rfl
@[simp] theorem releaseHex_rd2Lf : (releaseHex s).rd2Lf = s.rd2Lf := rfl
@[simp] theorem releaseHex_rd2Prompt : (releaseHex s).rd2Prompt = s.rd2Prompt := rfl
@[simp] theorem releaseHex_sess : (releaseHex s).sess = s.sess := rfl
@[simp] theorem releaseHex_baudCur : (releaseHex s).baudCur = s.baudCur := rfl
@[simp] theorem releaseHex_lastCmd : (releaseHex s).lastCmd = s.lastCmd := rfl
@[simp] theorem releaseHex_lastCmdV : (releaseHex s).lastCmdV = s.lastCmdV := rfl
@[simp] theorem releaseHex_busy : (releaseHex s).busy = s.busy := rfl
@[simp] theorem releaseHex_opCur : (releaseHex s).opCur = s.opCur := rfl
@[simp] theorem releaseHex_prog : (releaseHex s).prog = s.prog := rfl
@[simp] theorem releaseHex_stCause : (releaseHex s).stCause = s.stCause := rfl
@[simp] theorem releaseHex_stSub : (releaseHex s).stSub = s.stSub := rfl
@[simp] theorem releaseHex_stExp : (releaseHex s).stExp = s.stExp := rfl
@[simp] theorem releaseHex_stAct : (releaseHex s).stAct = s.stAct := rfl
@[simp] theorem releaseHex_stCode : (releaseHex s).stCode = s.stCode := rfl
@[simp] theorem releaseHex_stOp : (releaseHex s).stOp = s.stOp := rfl
@[simp] theorem releaseHex_anyFault : (releaseHex s).anyFault = s.anyFault := rfl
@[simp] theorem releaseHex_winCnt : (releaseHex s).winCnt = s.winCnt := rfl
@[simp] theorem releaseHex_freeCtr : (releaseHex s).freeCtr = s.freeCtr := rfl
@[simp] theorem releaseHex_env : (releaseHex s).env = s.env := rfl
@[simp] theorem releaseHex_out : (releaseHex s).out = s.out := rfl

/-! ## `setEofSeen` -/

@[simp] theorem setEofSeen_recLen : (setEofSeen s).recLen = s.recLen := rfl
@[simp] theorem setEofSeen_recOff : (setEofSeen s).recOff = s.recOff := rfl
@[simp] theorem setEofSeen_recType : (setEofSeen s).recType = s.recType := rfl
@[simp] theorem setEofSeen_recPay : (setEofSeen s).recPay = s.recPay := rfl
@[simp] theorem setEofSeen_recCks : (setEofSeen s).recCks = s.recCks := rfl
@[simp] theorem setEofSeen_cksAcc : (setEofSeen s).cksAcc = s.cksAcc := rfl
@[simp] theorem setEofSeen_lineBuf : (setEofSeen s).lineBuf = s.lineBuf := rfl
@[simp] theorem setEofSeen_lineOvf : (setEofSeen s).lineOvf = s.lineOvf := rfl
@[simp] theorem setEofSeen_abase : (setEofSeen s).abase = s.abase := rfl
@[simp] theorem setEofSeen_hsActive : (setEofSeen s).hsActive = s.hsActive := rfl
@[simp] theorem setEofSeen_eofSeen : (setEofSeen s).eofSeen = true := rfl
@[simp] theorem setEofSeen_p0 : (setEofSeen s).p0 = s.p0 := rfl
@[simp] theorem setEofSeen_p1 : (setEofSeen s).p1 = s.p1 := rfl
@[simp] theorem setEofSeen_cnt : (setEofSeen s).cnt = s.cnt := rfl
@[simp] theorem setEofSeen_rtByte : (setEofSeen s).rtByte = s.rtByte := rfl
@[simp] theorem setEofSeen_rd2Lf : (setEofSeen s).rd2Lf = s.rd2Lf := rfl
@[simp] theorem setEofSeen_rd2Prompt : (setEofSeen s).rd2Prompt = s.rd2Prompt := rfl
@[simp] theorem setEofSeen_sess : (setEofSeen s).sess = s.sess := rfl
@[simp] theorem setEofSeen_baudCur : (setEofSeen s).baudCur = s.baudCur := rfl
@[simp] theorem setEofSeen_lastCmd : (setEofSeen s).lastCmd = s.lastCmd := rfl
@[simp] theorem setEofSeen_lastCmdV : (setEofSeen s).lastCmdV = s.lastCmdV := rfl
@[simp] theorem setEofSeen_busy : (setEofSeen s).busy = s.busy := rfl
@[simp] theorem setEofSeen_opCur : (setEofSeen s).opCur = s.opCur := rfl
@[simp] theorem setEofSeen_prog : (setEofSeen s).prog = s.prog := rfl
@[simp] theorem setEofSeen_stCause : (setEofSeen s).stCause = s.stCause := rfl
@[simp] theorem setEofSeen_stSub : (setEofSeen s).stSub = s.stSub := rfl
@[simp] theorem setEofSeen_stExp : (setEofSeen s).stExp = s.stExp := rfl
@[simp] theorem setEofSeen_stAct : (setEofSeen s).stAct = s.stAct := rfl
@[simp] theorem setEofSeen_stCode : (setEofSeen s).stCode = s.stCode := rfl
@[simp] theorem setEofSeen_stOp : (setEofSeen s).stOp = s.stOp := rfl
@[simp] theorem setEofSeen_anyFault : (setEofSeen s).anyFault = s.anyFault := rfl
@[simp] theorem setEofSeen_winCnt : (setEofSeen s).winCnt = s.winCnt := rfl
@[simp] theorem setEofSeen_freeCtr : (setEofSeen s).freeCtr = s.freeCtr := rfl
@[simp] theorem setEofSeen_env : (setEofSeen s).env = s.env := rfl
@[simp] theorem setEofSeen_out : (setEofSeen s).out = s.out := rfl

/-! ## `latchOp` -/

@[simp] theorem latchOp_recLen (code : Nibble) : (latchOp code s).recLen = s.recLen := rfl
@[simp] theorem latchOp_recOff (code : Nibble) : (latchOp code s).recOff = s.recOff := rfl
@[simp] theorem latchOp_recType (code : Nibble) : (latchOp code s).recType = s.recType := rfl
@[simp] theorem latchOp_recPay (code : Nibble) : (latchOp code s).recPay = s.recPay := rfl
@[simp] theorem latchOp_recCks (code : Nibble) : (latchOp code s).recCks = s.recCks := rfl
@[simp] theorem latchOp_cksAcc (code : Nibble) : (latchOp code s).cksAcc = s.cksAcc := rfl
@[simp] theorem latchOp_lineBuf (code : Nibble) : (latchOp code s).lineBuf = s.lineBuf := rfl
@[simp] theorem latchOp_lineOvf (code : Nibble) : (latchOp code s).lineOvf = s.lineOvf := rfl
@[simp] theorem latchOp_abase (code : Nibble) : (latchOp code s).abase = s.abase := rfl
@[simp] theorem latchOp_hsActive (code : Nibble) : (latchOp code s).hsActive = s.hsActive := rfl
@[simp] theorem latchOp_eofSeen (code : Nibble) : (latchOp code s).eofSeen = s.eofSeen := rfl
@[simp] theorem latchOp_p0 (code : Nibble) : (latchOp code s).p0 = s.p0 := rfl
@[simp] theorem latchOp_p1 (code : Nibble) : (latchOp code s).p1 = s.p1 := rfl
@[simp] theorem latchOp_cnt (code : Nibble) : (latchOp code s).cnt = s.cnt := rfl
@[simp] theorem latchOp_rtByte (code : Nibble) : (latchOp code s).rtByte = s.rtByte := rfl
@[simp] theorem latchOp_rd2Lf (code : Nibble) : (latchOp code s).rd2Lf = s.rd2Lf := rfl
@[simp] theorem latchOp_rd2Prompt (code : Nibble) : (latchOp code s).rd2Prompt = s.rd2Prompt := rfl
@[simp] theorem latchOp_sess (code : Nibble) : (latchOp code s).sess = s.sess := rfl
@[simp] theorem latchOp_baudCur (code : Nibble) : (latchOp code s).baudCur = s.baudCur := rfl
@[simp] theorem latchOp_lastCmd (code : Nibble) : (latchOp code s).lastCmd = s.lastCmd := rfl
@[simp] theorem latchOp_lastCmdV (code : Nibble) : (latchOp code s).lastCmdV = s.lastCmdV := rfl
@[simp] theorem latchOp_busy (code : Nibble) : (latchOp code s).busy = true := rfl
@[simp] theorem latchOp_opCur (code : Nibble) : (latchOp code s).opCur = code := rfl
@[simp] theorem latchOp_prog (code : Nibble) : (latchOp code s).prog = s.prog := rfl
@[simp] theorem latchOp_stCause (code : Nibble) : (latchOp code s).stCause = s.stCause := rfl
@[simp] theorem latchOp_stSub (code : Nibble) : (latchOp code s).stSub = s.stSub := rfl
@[simp] theorem latchOp_stExp (code : Nibble) : (latchOp code s).stExp = s.stExp := rfl
@[simp] theorem latchOp_stAct (code : Nibble) : (latchOp code s).stAct = s.stAct := rfl
@[simp] theorem latchOp_stCode (code : Nibble) : (latchOp code s).stCode = s.stCode := rfl
@[simp] theorem latchOp_stOp (code : Nibble) : (latchOp code s).stOp = s.stOp := rfl
@[simp] theorem latchOp_anyFault (code : Nibble) : (latchOp code s).anyFault = s.anyFault := rfl
@[simp] theorem latchOp_winCnt (code : Nibble) : (latchOp code s).winCnt = s.winCnt := rfl
@[simp] theorem latchOp_freeCtr (code : Nibble) : (latchOp code s).freeCtr = s.freeCtr := rfl
@[simp] theorem latchOp_env (code : Nibble) : (latchOp code s).env = s.env := rfl
@[simp] theorem latchOp_out (code : Nibble) : (latchOp code s).out = s.out := rfl

/-! ## `loadP0` -/

@[simp] theorem loadP0_recLen (v : Word) : (loadP0 v s).recLen = s.recLen := rfl
@[simp] theorem loadP0_recOff (v : Word) : (loadP0 v s).recOff = s.recOff := rfl
@[simp] theorem loadP0_recType (v : Word) : (loadP0 v s).recType = s.recType := rfl
@[simp] theorem loadP0_recPay (v : Word) : (loadP0 v s).recPay = s.recPay := rfl
@[simp] theorem loadP0_recCks (v : Word) : (loadP0 v s).recCks = s.recCks := rfl
@[simp] theorem loadP0_cksAcc (v : Word) : (loadP0 v s).cksAcc = s.cksAcc := rfl
@[simp] theorem loadP0_lineBuf (v : Word) : (loadP0 v s).lineBuf = s.lineBuf := rfl
@[simp] theorem loadP0_lineOvf (v : Word) : (loadP0 v s).lineOvf = s.lineOvf := rfl
@[simp] theorem loadP0_abase (v : Word) : (loadP0 v s).abase = s.abase := rfl
@[simp] theorem loadP0_hsActive (v : Word) : (loadP0 v s).hsActive = s.hsActive := rfl
@[simp] theorem loadP0_eofSeen (v : Word) : (loadP0 v s).eofSeen = s.eofSeen := rfl
@[simp] theorem loadP0_p0 (v : Word) : (loadP0 v s).p0 = v := rfl
@[simp] theorem loadP0_p1 (v : Word) : (loadP0 v s).p1 = s.p1 := rfl
@[simp] theorem loadP0_cnt (v : Word) : (loadP0 v s).cnt = s.cnt := rfl
@[simp] theorem loadP0_rtByte (v : Word) : (loadP0 v s).rtByte = s.rtByte := rfl
@[simp] theorem loadP0_rd2Lf (v : Word) : (loadP0 v s).rd2Lf = s.rd2Lf := rfl
@[simp] theorem loadP0_rd2Prompt (v : Word) : (loadP0 v s).rd2Prompt = s.rd2Prompt := rfl
@[simp] theorem loadP0_sess (v : Word) : (loadP0 v s).sess = s.sess := rfl
@[simp] theorem loadP0_baudCur (v : Word) : (loadP0 v s).baudCur = s.baudCur := rfl
@[simp] theorem loadP0_lastCmd (v : Word) : (loadP0 v s).lastCmd = s.lastCmd := rfl
@[simp] theorem loadP0_lastCmdV (v : Word) : (loadP0 v s).lastCmdV = s.lastCmdV := rfl
@[simp] theorem loadP0_busy (v : Word) : (loadP0 v s).busy = s.busy := rfl
@[simp] theorem loadP0_opCur (v : Word) : (loadP0 v s).opCur = s.opCur := rfl
@[simp] theorem loadP0_prog (v : Word) : (loadP0 v s).prog = s.prog := rfl
@[simp] theorem loadP0_stCause (v : Word) : (loadP0 v s).stCause = s.stCause := rfl
@[simp] theorem loadP0_stSub (v : Word) : (loadP0 v s).stSub = s.stSub := rfl
@[simp] theorem loadP0_stExp (v : Word) : (loadP0 v s).stExp = s.stExp := rfl
@[simp] theorem loadP0_stAct (v : Word) : (loadP0 v s).stAct = s.stAct := rfl
@[simp] theorem loadP0_stCode (v : Word) : (loadP0 v s).stCode = s.stCode := rfl
@[simp] theorem loadP0_stOp (v : Word) : (loadP0 v s).stOp = s.stOp := rfl
@[simp] theorem loadP0_anyFault (v : Word) : (loadP0 v s).anyFault = s.anyFault := rfl
@[simp] theorem loadP0_winCnt (v : Word) : (loadP0 v s).winCnt = s.winCnt := rfl
@[simp] theorem loadP0_freeCtr (v : Word) : (loadP0 v s).freeCtr = s.freeCtr := rfl
@[simp] theorem loadP0_env (v : Word) : (loadP0 v s).env = s.env := rfl
@[simp] theorem loadP0_out (v : Word) : (loadP0 v s).out = s.out := rfl

/-! ## `loadP1` -/

@[simp] theorem loadP1_recLen (v : Word) : (loadP1 v s).recLen = s.recLen := rfl
@[simp] theorem loadP1_recOff (v : Word) : (loadP1 v s).recOff = s.recOff := rfl
@[simp] theorem loadP1_recType (v : Word) : (loadP1 v s).recType = s.recType := rfl
@[simp] theorem loadP1_recPay (v : Word) : (loadP1 v s).recPay = s.recPay := rfl
@[simp] theorem loadP1_recCks (v : Word) : (loadP1 v s).recCks = s.recCks := rfl
@[simp] theorem loadP1_cksAcc (v : Word) : (loadP1 v s).cksAcc = s.cksAcc := rfl
@[simp] theorem loadP1_lineBuf (v : Word) : (loadP1 v s).lineBuf = s.lineBuf := rfl
@[simp] theorem loadP1_lineOvf (v : Word) : (loadP1 v s).lineOvf = s.lineOvf := rfl
@[simp] theorem loadP1_abase (v : Word) : (loadP1 v s).abase = s.abase := rfl
@[simp] theorem loadP1_hsActive (v : Word) : (loadP1 v s).hsActive = s.hsActive := rfl
@[simp] theorem loadP1_eofSeen (v : Word) : (loadP1 v s).eofSeen = s.eofSeen := rfl
@[simp] theorem loadP1_p0 (v : Word) : (loadP1 v s).p0 = s.p0 := rfl
@[simp] theorem loadP1_p1 (v : Word) : (loadP1 v s).p1 = v := rfl
@[simp] theorem loadP1_cnt (v : Word) : (loadP1 v s).cnt = s.cnt := rfl
@[simp] theorem loadP1_rtByte (v : Word) : (loadP1 v s).rtByte = s.rtByte := rfl
@[simp] theorem loadP1_rd2Lf (v : Word) : (loadP1 v s).rd2Lf = s.rd2Lf := rfl
@[simp] theorem loadP1_rd2Prompt (v : Word) : (loadP1 v s).rd2Prompt = s.rd2Prompt := rfl
@[simp] theorem loadP1_sess (v : Word) : (loadP1 v s).sess = s.sess := rfl
@[simp] theorem loadP1_baudCur (v : Word) : (loadP1 v s).baudCur = s.baudCur := rfl
@[simp] theorem loadP1_lastCmd (v : Word) : (loadP1 v s).lastCmd = s.lastCmd := rfl
@[simp] theorem loadP1_lastCmdV (v : Word) : (loadP1 v s).lastCmdV = s.lastCmdV := rfl
@[simp] theorem loadP1_busy (v : Word) : (loadP1 v s).busy = s.busy := rfl
@[simp] theorem loadP1_opCur (v : Word) : (loadP1 v s).opCur = s.opCur := rfl
@[simp] theorem loadP1_prog (v : Word) : (loadP1 v s).prog = s.prog := rfl
@[simp] theorem loadP1_stCause (v : Word) : (loadP1 v s).stCause = s.stCause := rfl
@[simp] theorem loadP1_stSub (v : Word) : (loadP1 v s).stSub = s.stSub := rfl
@[simp] theorem loadP1_stExp (v : Word) : (loadP1 v s).stExp = s.stExp := rfl
@[simp] theorem loadP1_stAct (v : Word) : (loadP1 v s).stAct = s.stAct := rfl
@[simp] theorem loadP1_stCode (v : Word) : (loadP1 v s).stCode = s.stCode := rfl
@[simp] theorem loadP1_stOp (v : Word) : (loadP1 v s).stOp = s.stOp := rfl
@[simp] theorem loadP1_anyFault (v : Word) : (loadP1 v s).anyFault = s.anyFault := rfl
@[simp] theorem loadP1_winCnt (v : Word) : (loadP1 v s).winCnt = s.winCnt := rfl
@[simp] theorem loadP1_freeCtr (v : Word) : (loadP1 v s).freeCtr = s.freeCtr := rfl
@[simp] theorem loadP1_env (v : Word) : (loadP1 v s).env = s.env := rfl
@[simp] theorem loadP1_out (v : Word) : (loadP1 v s).out = s.out := rfl

/-! ## `setChecksumAcc` -/

@[simp] theorem setChecksumAcc_recLen (v : Byte) : (setChecksumAcc v s).recLen = s.recLen := rfl
@[simp] theorem setChecksumAcc_recOff (v : Byte) : (setChecksumAcc v s).recOff = s.recOff := rfl
@[simp] theorem setChecksumAcc_recType (v : Byte) : (setChecksumAcc v s).recType = s.recType := rfl
@[simp] theorem setChecksumAcc_recPay (v : Byte) : (setChecksumAcc v s).recPay = s.recPay := rfl
@[simp] theorem setChecksumAcc_recCks (v : Byte) : (setChecksumAcc v s).recCks = s.recCks := rfl
@[simp] theorem setChecksumAcc_cksAcc (v : Byte) : (setChecksumAcc v s).cksAcc = v := rfl
@[simp] theorem setChecksumAcc_lineBuf (v : Byte) : (setChecksumAcc v s).lineBuf = s.lineBuf := rfl
@[simp] theorem setChecksumAcc_lineOvf (v : Byte) : (setChecksumAcc v s).lineOvf = s.lineOvf := rfl
@[simp] theorem setChecksumAcc_abase (v : Byte) : (setChecksumAcc v s).abase = s.abase := rfl
@[simp] theorem setChecksumAcc_hsActive (v : Byte) : (setChecksumAcc v s).hsActive = s.hsActive := rfl
@[simp] theorem setChecksumAcc_eofSeen (v : Byte) : (setChecksumAcc v s).eofSeen = s.eofSeen := rfl
@[simp] theorem setChecksumAcc_p0 (v : Byte) : (setChecksumAcc v s).p0 = s.p0 := rfl
@[simp] theorem setChecksumAcc_p1 (v : Byte) : (setChecksumAcc v s).p1 = s.p1 := rfl
@[simp] theorem setChecksumAcc_cnt (v : Byte) : (setChecksumAcc v s).cnt = s.cnt := rfl
@[simp] theorem setChecksumAcc_rtByte (v : Byte) : (setChecksumAcc v s).rtByte = s.rtByte := rfl
@[simp] theorem setChecksumAcc_rd2Lf (v : Byte) : (setChecksumAcc v s).rd2Lf = s.rd2Lf := rfl
@[simp] theorem setChecksumAcc_rd2Prompt (v : Byte) : (setChecksumAcc v s).rd2Prompt = s.rd2Prompt := rfl
@[simp] theorem setChecksumAcc_sess (v : Byte) : (setChecksumAcc v s).sess = s.sess := rfl
@[simp] theorem setChecksumAcc_baudCur (v : Byte) : (setChecksumAcc v s).baudCur = s.baudCur := rfl
@[simp] theorem setChecksumAcc_lastCmd (v : Byte) : (setChecksumAcc v s).lastCmd = s.lastCmd := rfl
@[simp] theorem setChecksumAcc_lastCmdV (v : Byte) : (setChecksumAcc v s).lastCmdV = s.lastCmdV := rfl
@[simp] theorem setChecksumAcc_busy (v : Byte) : (setChecksumAcc v s).busy = s.busy := rfl
@[simp] theorem setChecksumAcc_opCur (v : Byte) : (setChecksumAcc v s).opCur = s.opCur := rfl
@[simp] theorem setChecksumAcc_prog (v : Byte) : (setChecksumAcc v s).prog = s.prog := rfl
@[simp] theorem setChecksumAcc_stCause (v : Byte) : (setChecksumAcc v s).stCause = s.stCause := rfl
@[simp] theorem setChecksumAcc_stSub (v : Byte) : (setChecksumAcc v s).stSub = s.stSub := rfl
@[simp] theorem setChecksumAcc_stExp (v : Byte) : (setChecksumAcc v s).stExp = s.stExp := rfl
@[simp] theorem setChecksumAcc_stAct (v : Byte) : (setChecksumAcc v s).stAct = s.stAct := rfl
@[simp] theorem setChecksumAcc_stCode (v : Byte) : (setChecksumAcc v s).stCode = s.stCode := rfl
@[simp] theorem setChecksumAcc_stOp (v : Byte) : (setChecksumAcc v s).stOp = s.stOp := rfl
@[simp] theorem setChecksumAcc_anyFault (v : Byte) : (setChecksumAcc v s).anyFault = s.anyFault := rfl
@[simp] theorem setChecksumAcc_winCnt (v : Byte) : (setChecksumAcc v s).winCnt = s.winCnt := rfl
@[simp] theorem setChecksumAcc_freeCtr (v : Byte) : (setChecksumAcc v s).freeCtr = s.freeCtr := rfl
@[simp] theorem setChecksumAcc_env (v : Byte) : (setChecksumAcc v s).env = s.env := rfl
@[simp] theorem setChecksumAcc_out (v : Byte) : (setChecksumAcc v s).out = s.out := rfl

/-! ## `takeReport` -/

@[simp] theorem takeReport_recLen : (takeReport s).recLen = s.recLen := rfl
@[simp] theorem takeReport_recOff : (takeReport s).recOff = s.recOff := rfl
@[simp] theorem takeReport_recType : (takeReport s).recType = s.recType := rfl
@[simp] theorem takeReport_recPay : (takeReport s).recPay = s.recPay := rfl
@[simp] theorem takeReport_recCks : (takeReport s).recCks = s.recCks := rfl
@[simp] theorem takeReport_cksAcc : (takeReport s).cksAcc = s.cksAcc := rfl
@[simp] theorem takeReport_lineBuf : (takeReport s).lineBuf = s.lineBuf := rfl
@[simp] theorem takeReport_lineOvf : (takeReport s).lineOvf = s.lineOvf := rfl
@[simp] theorem takeReport_abase : (takeReport s).abase = s.abase := rfl
@[simp] theorem takeReport_hsActive : (takeReport s).hsActive = s.hsActive := rfl
@[simp] theorem takeReport_eofSeen : (takeReport s).eofSeen = s.eofSeen := rfl
@[simp] theorem takeReport_p0 : (takeReport s).p0 = s.p0 := rfl
@[simp] theorem takeReport_p1 : (takeReport s).p1 = s.p1 := rfl
@[simp] theorem takeReport_cnt : (takeReport s).cnt = s.cnt := rfl
@[simp] theorem takeReport_rtByte : (takeReport s).rtByte = s.rtByte := rfl
@[simp] theorem takeReport_rd2Lf : (takeReport s).rd2Lf = s.rd2Lf := rfl
@[simp] theorem takeReport_rd2Prompt : (takeReport s).rd2Prompt = s.rd2Prompt := rfl
@[simp] theorem takeReport_sess : (takeReport s).sess = s.sess := rfl
@[simp] theorem takeReport_baudCur : (takeReport s).baudCur = s.baudCur := rfl
@[simp] theorem takeReport_lastCmd : (takeReport s).lastCmd = s.lastCmd := rfl
@[simp] theorem takeReport_lastCmdV : (takeReport s).lastCmdV = s.lastCmdV := rfl
@[simp] theorem takeReport_busy : (takeReport s).busy = false := rfl
@[simp] theorem takeReport_opCur : (takeReport s).opCur = s.opCur := rfl
@[simp] theorem takeReport_prog : (takeReport s).prog = [] := rfl
@[simp] theorem takeReport_stCause : (takeReport s).stCause = s.stCause := rfl
@[simp] theorem takeReport_stSub : (takeReport s).stSub = s.stSub := rfl
@[simp] theorem takeReport_stExp : (takeReport s).stExp = s.stExp := rfl
@[simp] theorem takeReport_stAct : (takeReport s).stAct = s.stAct := rfl
@[simp] theorem takeReport_stCode : (takeReport s).stCode = s.stCode := rfl
@[simp] theorem takeReport_stOp : (takeReport s).stOp = s.stOp := rfl
@[simp] theorem takeReport_anyFault : (takeReport s).anyFault = s.anyFault := rfl
@[simp] theorem takeReport_winCnt : (takeReport s).winCnt = s.winCnt := rfl
@[simp] theorem takeReport_freeCtr : (takeReport s).freeCtr = s.freeCtr := rfl
@[simp] theorem takeReport_env : (takeReport s).env = s.env := rfl
@[simp] theorem takeReport_out : (takeReport s).out = { s.out with reports := s.out.reports ++ [reportOf s] } := rfl

/-! ## `writeStatus` -/

@[simp] theorem writeStatus_recLen (st : Status) : (writeStatus st s).recLen = s.recLen := rfl
@[simp] theorem writeStatus_recOff (st : Status) : (writeStatus st s).recOff = s.recOff := rfl
@[simp] theorem writeStatus_recType (st : Status) : (writeStatus st s).recType = s.recType := rfl
@[simp] theorem writeStatus_recPay (st : Status) : (writeStatus st s).recPay = s.recPay := rfl
@[simp] theorem writeStatus_recCks (st : Status) : (writeStatus st s).recCks = s.recCks := rfl
@[simp] theorem writeStatus_cksAcc (st : Status) : (writeStatus st s).cksAcc = s.cksAcc := rfl
@[simp] theorem writeStatus_lineBuf (st : Status) : (writeStatus st s).lineBuf = s.lineBuf := rfl
@[simp] theorem writeStatus_lineOvf (st : Status) : (writeStatus st s).lineOvf = s.lineOvf := rfl
@[simp] theorem writeStatus_abase (st : Status) : (writeStatus st s).abase = s.abase := rfl
@[simp] theorem writeStatus_hsActive (st : Status) : (writeStatus st s).hsActive = s.hsActive := rfl
@[simp] theorem writeStatus_eofSeen (st : Status) : (writeStatus st s).eofSeen = s.eofSeen := rfl
@[simp] theorem writeStatus_p0 (st : Status) : (writeStatus st s).p0 = s.p0 := rfl
@[simp] theorem writeStatus_p1 (st : Status) : (writeStatus st s).p1 = s.p1 := rfl
@[simp] theorem writeStatus_cnt (st : Status) : (writeStatus st s).cnt = s.cnt := rfl
@[simp] theorem writeStatus_rtByte (st : Status) : (writeStatus st s).rtByte = s.rtByte := rfl
@[simp] theorem writeStatus_rd2Lf (st : Status) : (writeStatus st s).rd2Lf = s.rd2Lf := rfl
@[simp] theorem writeStatus_rd2Prompt (st : Status) : (writeStatus st s).rd2Prompt = s.rd2Prompt := rfl
@[simp] theorem writeStatus_sess (st : Status) : (writeStatus st s).sess = s.sess := rfl
@[simp] theorem writeStatus_baudCur (st : Status) : (writeStatus st s).baudCur = s.baudCur := rfl
@[simp] theorem writeStatus_lastCmd (st : Status) : (writeStatus st s).lastCmd = s.lastCmd := rfl
@[simp] theorem writeStatus_lastCmdV (st : Status) : (writeStatus st s).lastCmdV = s.lastCmdV := rfl
@[simp] theorem writeStatus_busy (st : Status) : (writeStatus st s).busy = s.busy := rfl
@[simp] theorem writeStatus_opCur (st : Status) : (writeStatus st s).opCur = s.opCur := rfl
@[simp] theorem writeStatus_prog (st : Status) : (writeStatus st s).prog = s.prog := rfl
@[simp] theorem writeStatus_stCause (st : Status) : (writeStatus st s).stCause = st.cause := rfl
@[simp] theorem writeStatus_stSub (st : Status) : (writeStatus st s).stSub = st.sub := rfl
@[simp] theorem writeStatus_stExp (st : Status) : (writeStatus st s).stExp = st.exp := rfl
@[simp] theorem writeStatus_stAct (st : Status) : (writeStatus st s).stAct = st.act := rfl
@[simp] theorem writeStatus_stCode (st : Status) : (writeStatus st s).stCode = st.devCode := rfl
@[simp] theorem writeStatus_stOp (st : Status) : (writeStatus st s).stOp = s.opCur := rfl
@[simp] theorem writeStatus_anyFault (st : Status) : (writeStatus st s).anyFault = s.anyFault := rfl
@[simp] theorem writeStatus_winCnt (st : Status) : (writeStatus st s).winCnt = s.winCnt := rfl
@[simp] theorem writeStatus_freeCtr (st : Status) : (writeStatus st s).freeCtr = s.freeCtr := rfl
@[simp] theorem writeStatus_env (st : Status) : (writeStatus st s).env = s.env := rfl
@[simp] theorem writeStatus_out (st : Status) : (writeStatus st s).out = s.out := rfl

/-! ## `writeRecord` -/

@[simp] theorem writeRecord_recLen (r : HexRecord) : (writeRecord r s).recLen = r.len := rfl
@[simp] theorem writeRecord_recOff (r : HexRecord) : (writeRecord r s).recOff = r.off := rfl
@[simp] theorem writeRecord_recType (r : HexRecord) : (writeRecord r s).recType = r.type := rfl
@[simp] theorem writeRecord_recPay (r : HexRecord) : (writeRecord r s).recPay = Memory.writeBytes s.recPay 0 r.payload := rfl
@[simp] theorem writeRecord_recCks (r : HexRecord) : (writeRecord r s).recCks = r.cks := rfl
@[simp] theorem writeRecord_cksAcc (r : HexRecord) : (writeRecord r s).cksAcc = s.cksAcc := rfl
@[simp] theorem writeRecord_lineBuf (r : HexRecord) : (writeRecord r s).lineBuf = s.lineBuf := rfl
@[simp] theorem writeRecord_lineOvf (r : HexRecord) : (writeRecord r s).lineOvf = s.lineOvf := rfl
@[simp] theorem writeRecord_abase (r : HexRecord) : (writeRecord r s).abase = s.abase := rfl
@[simp] theorem writeRecord_hsActive (r : HexRecord) : (writeRecord r s).hsActive = s.hsActive := rfl
@[simp] theorem writeRecord_eofSeen (r : HexRecord) : (writeRecord r s).eofSeen = s.eofSeen := rfl
@[simp] theorem writeRecord_p0 (r : HexRecord) : (writeRecord r s).p0 = s.p0 := rfl
@[simp] theorem writeRecord_p1 (r : HexRecord) : (writeRecord r s).p1 = s.p1 := rfl
@[simp] theorem writeRecord_cnt (r : HexRecord) : (writeRecord r s).cnt = s.cnt := rfl
@[simp] theorem writeRecord_rtByte (r : HexRecord) : (writeRecord r s).rtByte = s.rtByte := rfl
@[simp] theorem writeRecord_rd2Lf (r : HexRecord) : (writeRecord r s).rd2Lf = s.rd2Lf := rfl
@[simp] theorem writeRecord_rd2Prompt (r : HexRecord) : (writeRecord r s).rd2Prompt = s.rd2Prompt := rfl
@[simp] theorem writeRecord_sess (r : HexRecord) : (writeRecord r s).sess = s.sess := rfl
@[simp] theorem writeRecord_baudCur (r : HexRecord) : (writeRecord r s).baudCur = s.baudCur := rfl
@[simp] theorem writeRecord_lastCmd (r : HexRecord) : (writeRecord r s).lastCmd = s.lastCmd := rfl
@[simp] theorem writeRecord_lastCmdV (r : HexRecord) : (writeRecord r s).lastCmdV = s.lastCmdV := rfl
@[simp] theorem writeRecord_busy (r : HexRecord) : (writeRecord r s).busy = s.busy := rfl
@[simp] theorem writeRecord_opCur (r : HexRecord) : (writeRecord r s).opCur = s.opCur := rfl
@[simp] theorem writeRecord_prog (r : HexRecord) : (writeRecord r s).prog = s.prog := rfl
@[simp] theorem writeRecord_stCause (r : HexRecord) : (writeRecord r s).stCause = s.stCause := rfl
@[simp] theorem writeRecord_stSub (r : HexRecord) : (writeRecord r s).stSub = s.stSub := rfl
@[simp] theorem writeRecord_stExp (r : HexRecord) : (writeRecord r s).stExp = s.stExp := rfl
@[simp] theorem writeRecord_stAct (r : HexRecord) : (writeRecord r s).stAct = s.stAct := rfl
@[simp] theorem writeRecord_stCode (r : HexRecord) : (writeRecord r s).stCode = s.stCode := rfl
@[simp] theorem writeRecord_stOp (r : HexRecord) : (writeRecord r s).stOp = s.stOp := rfl
@[simp] theorem writeRecord_anyFault (r : HexRecord) : (writeRecord r s).anyFault = s.anyFault := rfl
@[simp] theorem writeRecord_winCnt (r : HexRecord) : (writeRecord r s).winCnt = s.winCnt := rfl
@[simp] theorem writeRecord_freeCtr (r : HexRecord) : (writeRecord r s).freeCtr = s.freeCtr := rfl
@[simp] theorem writeRecord_env (r : HexRecord) : (writeRecord r s).env = s.env := rfl
@[simp] theorem writeRecord_out (r : HexRecord) : (writeRecord r s).out = s.out := rfl

/-! ## `freeRecord` -/

@[simp] theorem freeRecord_recLen : (freeRecord s).recLen = Config.freeRecLen s.freeCtr := rfl
@[simp] theorem freeRecord_recOff : (freeRecord s).recOff = Config.freeRecOff s.freeCtr := rfl
@[simp] theorem freeRecord_recType : (freeRecord s).recType = Config.freeRecType s.freeCtr := rfl
@[simp] theorem freeRecord_recPay : (freeRecord s).recPay = Memory.writeBytes s.recPay 0 (freePayload s.freeCtr) := rfl
@[simp] theorem freeRecord_recCks : (freeRecord s).recCks = Config.freeRecCks s.freeCtr := rfl
@[simp] theorem freeRecord_cksAcc : (freeRecord s).cksAcc = s.cksAcc := rfl
@[simp] theorem freeRecord_lineBuf : (freeRecord s).lineBuf = s.lineBuf := rfl
@[simp] theorem freeRecord_lineOvf : (freeRecord s).lineOvf = s.lineOvf := rfl
@[simp] theorem freeRecord_abase : (freeRecord s).abase = s.abase := rfl
@[simp] theorem freeRecord_hsActive : (freeRecord s).hsActive = s.hsActive := rfl
@[simp] theorem freeRecord_eofSeen : (freeRecord s).eofSeen = s.eofSeen := rfl
@[simp] theorem freeRecord_p0 : (freeRecord s).p0 = s.p0 := rfl
@[simp] theorem freeRecord_p1 : (freeRecord s).p1 = s.p1 := rfl
@[simp] theorem freeRecord_cnt : (freeRecord s).cnt = s.cnt := rfl
@[simp] theorem freeRecord_rtByte : (freeRecord s).rtByte = s.rtByte := rfl
@[simp] theorem freeRecord_rd2Lf : (freeRecord s).rd2Lf = s.rd2Lf := rfl
@[simp] theorem freeRecord_rd2Prompt : (freeRecord s).rd2Prompt = s.rd2Prompt := rfl
@[simp] theorem freeRecord_sess : (freeRecord s).sess = s.sess := rfl
@[simp] theorem freeRecord_baudCur : (freeRecord s).baudCur = s.baudCur := rfl
@[simp] theorem freeRecord_lastCmd : (freeRecord s).lastCmd = s.lastCmd := rfl
@[simp] theorem freeRecord_lastCmdV : (freeRecord s).lastCmdV = s.lastCmdV := rfl
@[simp] theorem freeRecord_busy : (freeRecord s).busy = s.busy := rfl
@[simp] theorem freeRecord_opCur : (freeRecord s).opCur = s.opCur := rfl
@[simp] theorem freeRecord_prog : (freeRecord s).prog = s.prog := rfl
@[simp] theorem freeRecord_stCause : (freeRecord s).stCause = s.stCause := rfl
@[simp] theorem freeRecord_stSub : (freeRecord s).stSub = s.stSub := rfl
@[simp] theorem freeRecord_stExp : (freeRecord s).stExp = s.stExp := rfl
@[simp] theorem freeRecord_stAct : (freeRecord s).stAct = s.stAct := rfl
@[simp] theorem freeRecord_stCode : (freeRecord s).stCode = s.stCode := rfl
@[simp] theorem freeRecord_stOp : (freeRecord s).stOp = s.stOp := rfl
@[simp] theorem freeRecord_anyFault : (freeRecord s).anyFault = s.anyFault := rfl
@[simp] theorem freeRecord_winCnt : (freeRecord s).winCnt = s.winCnt := rfl
@[simp] theorem freeRecord_freeCtr : (freeRecord s).freeCtr = s.freeCtr + 1 := rfl
@[simp] theorem freeRecord_env : (freeRecord s).env = s.env := rfl
@[simp] theorem freeRecord_out : (freeRecord s).out = s.out := rfl

/-! ## `demote` -/

@[simp] theorem demote_recLen (e : Err) : (demote e s).recLen = s.recLen := rfl
@[simp] theorem demote_recOff (e : Err) : (demote e s).recOff = s.recOff := rfl
@[simp] theorem demote_recType (e : Err) : (demote e s).recType = s.recType := rfl
@[simp] theorem demote_recPay (e : Err) : (demote e s).recPay = s.recPay := rfl
@[simp] theorem demote_recCks (e : Err) : (demote e s).recCks = s.recCks := rfl
@[simp] theorem demote_cksAcc (e : Err) : (demote e s).cksAcc = s.cksAcc := rfl
@[simp] theorem demote_lineBuf (e : Err) : (demote e s).lineBuf = s.lineBuf := rfl
@[simp] theorem demote_lineOvf (e : Err) : (demote e s).lineOvf = s.lineOvf := rfl
@[simp] theorem demote_abase (e : Err) : (demote e s).abase = s.abase := rfl
@[simp] theorem demote_hsActive (e : Err) : (demote e s).hsActive = s.hsActive := rfl
@[simp] theorem demote_eofSeen (e : Err) : (demote e s).eofSeen = s.eofSeen := rfl
@[simp] theorem demote_p0 (e : Err) : (demote e s).p0 = s.p0 := rfl
@[simp] theorem demote_p1 (e : Err) : (demote e s).p1 = s.p1 := rfl
@[simp] theorem demote_cnt (e : Err) : (demote e s).cnt = s.cnt := rfl
@[simp] theorem demote_rtByte (e : Err) : (demote e s).rtByte = s.rtByte := rfl
@[simp] theorem demote_rd2Lf (e : Err) : (demote e s).rd2Lf = s.rd2Lf := rfl
@[simp] theorem demote_rd2Prompt (e : Err) : (demote e s).rd2Prompt = s.rd2Prompt := rfl
@[simp] theorem demote_sess (e : Err) : (demote e s).sess = afterError e s.sess := rfl
@[simp] theorem demote_baudCur (e : Err) : (demote e s).baudCur = s.baudCur := rfl
@[simp] theorem demote_lastCmd (e : Err) : (demote e s).lastCmd = s.lastCmd := rfl
@[simp] theorem demote_lastCmdV (e : Err) : (demote e s).lastCmdV = s.lastCmdV := rfl
@[simp] theorem demote_busy (e : Err) : (demote e s).busy = s.busy := rfl
@[simp] theorem demote_opCur (e : Err) : (demote e s).opCur = s.opCur := rfl
@[simp] theorem demote_prog (e : Err) : (demote e s).prog = s.prog := rfl
@[simp] theorem demote_stCause (e : Err) : (demote e s).stCause = s.stCause := rfl
@[simp] theorem demote_stSub (e : Err) : (demote e s).stSub = s.stSub := rfl
@[simp] theorem demote_stExp (e : Err) : (demote e s).stExp = s.stExp := rfl
@[simp] theorem demote_stAct (e : Err) : (demote e s).stAct = s.stAct := rfl
@[simp] theorem demote_stCode (e : Err) : (demote e s).stCode = s.stCode := rfl
@[simp] theorem demote_stOp (e : Err) : (demote e s).stOp = s.stOp := rfl
@[simp] theorem demote_anyFault (e : Err) : (demote e s).anyFault = s.anyFault := rfl
@[simp] theorem demote_winCnt (e : Err) : (demote e s).winCnt = s.winCnt := rfl
@[simp] theorem demote_freeCtr (e : Err) : (demote e s).freeCtr = s.freeCtr := rfl
@[simp] theorem demote_env (e : Err) : (demote e s).env = s.env := rfl
@[simp] theorem demote_out (e : Err) : (demote e s).out = s.out := rfl

end Sys2Proof.Machine
end

