-- ==== Sys2Proof/Laws/Ops.lean ====
section
/-! SUPPORT. For each shared operation, once, everything it can do: the provers cite these and unfold nothing. -/

namespace Sys2Proof.Machine

/-- R209, R243: the report is taken, or the operation holds at it. -/
theorem offerReport_cases (s : State) :
    (s.env.doneReady = true ∧ offerReport s = takeReport s)
      ∨ (s.env.doneReady = false ∧ offerReport s = jump [.micro .report] s) := by
  unfold offerReport
  cases h : s.env.doneReady <;> simp

/-- R209: what completing does, with the host ready for the report and without. -/
theorem complete_cases (st : Status) (s : State) :
    (s.env.doneReady = true ∧ complete st s = takeReport (writeStatus st s))
      ∨ (s.env.doneReady = false ∧ complete st s = jump [.micro .report] (writeStatus st s)) := by
  simpa [complete] using offerReport_cases (writeStatus st s)

/-- R207: SESS after an error of CF. -/
theorem afterError_cf {e : Err} (h : e.ofCf = true) (x : Sess) :
    afterError e x = if x = .closed then .closed else .disconnected := by
  cases x <;> simp [afterError, h]

/-- R144: SESS after an error of HSR or HRV. -/
theorem afterError_file {e : Err} (h : e.ofCf = false) (x : Sess) : afterError e x = x := by
  simp [afterError, h]

/-- R207: what error entry does, with the host ready for the report and without. -/
theorem raise_cases (e : Err) (s : State) :
    (s.env.doneReady = true
        ∧ raise e s = takeReport (writeStatus (.error e) (releaseHex (demote e (setFault s)))))
      ∨ (s.env.doneReady = false
        ∧ raise e s = jump [.micro .report] (writeStatus (.error e) (releaseHex (demote e (setFault s))))) := by
  have h := complete_cases (.error e) (releaseHex (demote e (setFault s)))
  simpa [raise] using h

/-- R157: the comparison passes and changes nothing, or raises ProtocolError with both bytes. -/
theorem expect_cases (e a : Byte) (s : State) :
    (a = e ∧ expect e a s = s) ∨ (a ≠ e ∧ expect e a s = raise (.protocolError e a) s) := by
  unfold expect
  by_cases h : a = e <;> simp [h]

/-- R150: TP takes the byte, or the step holds. -/
theorem send_cases (b : Byte) (self : Stmt) (k : State → State) (s : State) :
    (s.env.txReady = true ∧ send b self k s = k (emit (.tx b) s))
      ∨ (s.env.txReady = false ∧ send b self k s = hold self s) := by
  unfold send
  cases s.env.txReady <;> simp

/-- R158: the opcode is sent and recorded and the exchange follows, or the step holds. -/
theorem sendOpcode_cases (op : Byte) (self : Instr) (tail : List Stmt) (s : State) :
    (s.env.txReady = true ∧ sendOpcode op self tail s = push tail (recordCmd op (emit (.tx op) s)))
      ∨ (s.env.txReady = false ∧ sendOpcode op self tail s = hold (.run self) s) :=
  send_cases op (.run self) _ s

/-- R153: the oldest byte is taken, or TP's timeout ends the read, or it waits. -/
theorem readOne_cases (self : Stmt) (k : Byte → State → State) (s : State) :
    (∃ b rest, s.env.rx = b :: rest
        ∧ readOne self k s = k b { s with env := { s.env with rx := rest } })
      ∨ (s.env.rx = [] ∧ s.env.rxTmo = true ∧ Config.tpHasTimeout = true
        ∧ readOne self k s = raise .timeoutBlocking { s with env := { s.env with rxTmo := false } })
      ∨ (s.env.rx = [] ∧ (s.env.rxTmo = false ∨ Config.tpHasTimeout = false)
        ∧ readOne self k s = hold self s) := by
  unfold readOne readByte
  cases hr : s.env.rx with
  | cons b rest => exact .inl ⟨b, rest, rfl, rfl⟩
  | nil => cases ht : s.env.rxTmo <;> cases hc : Config.tpHasTimeout <;> simp

/-- R159: TP has acknowledged the request, and its queue is what it then holds, or the step holds. -/
theorem tpRequest_cases (o : TpOut) (self : Stmt) (s : State) :
    (∃ q acks, s.env.tpAcks = q :: acks
        ∧ tpRequest o self s = emit o { s with env := { s.env with tpAcks := acks, rx := q } })
      ∨ (s.env.tpAcks = [] ∧ tpRequest o self s = hold self s) := by
  unfold tpRequest
  cases s.env.tpAcks with
  | nil => exact .inr ⟨rfl, rfl⟩
  | cons q acks => exact .inl ⟨q, acks, rfl, rfl⟩

/-- R170: a host operation runs, or is refused with its code. -/
theorem hostOperation_cases (op : HostOp) (latch run : State → State) (s : State) :
    (admits op s.sess = true ∧ hostOperation op latch run s = run (latch (latchOp op.code s)))
      ∨ (admits op s.sess = false
        ∧ hostOperation op latch run s = complete (.refused op.code) (latch (latchOp op.code s))) := by
  unfold hostOperation
  cases admits op s.sess <;> simp [refuse]

/-- R142: an event HSR raises runs, or ends the HEXRUN with Refused. -/
theorem wiredOperation_cases (op : HostOp) (run : State → State) (s : State) :
    (admits op s.sess = true ∧ wiredOperation op run s = run s)
      ∨ (admits op s.sess = false ∧ wiredOperation op run s = complete (.refused op.code) (releaseHex s)) := by
  unfold wiredOperation
  cases admits op s.sess <;> simp

/-- R160: a wired load takes its byte from REC_PAY, a host's from the payload stream, and nothing else changes. -/
theorem payloadByte_cases (s : State) :
    (s.hsActive = true ∧ s.cnt.toNat < Config.recPaySize
        ∧ payloadByte s = .byte (Memory.read s.recPay s.cnt.toNat) s)
      ∨ (s.hsActive = true ∧ Config.recPaySize ≤ s.cnt.toNat ∧ payloadByte s = .noIndex)
      ∨ (s.hsActive = false ∧ s.env.pl = [] ∧ payloadByte s = .notOffered)
      ∨ (∃ b rest, s.hsActive = false ∧ s.env.pl = b :: rest
        ∧ payloadByte s = .byte b { s with env := { s.env with pl := rest } }) := by
  unfold payloadByte
  cases s.hsActive
  · cases hp : s.env.pl <;> simp
  · by_cases h : s.cnt.toNat < Config.recPaySize
    · simp [h]
    · simp [h]; omega

/-- R21: a failed decode leaves a free value in each of the 255 payload bytes. -/
theorem freePayload_length (k : Nat) : (freePayload k).length = Config.recPaySize := by
  rw [freePayload, List.length_map, List.length_range]

/-- R22, R112: the line buffer never holds more than 521 characters. -/
theorem storeChar_length {buf : List Byte} {ovf : Bool} (c : Byte) (h : buf.length ≤ Config.lineMax) :
    (storeChar buf ovf c).1.length ≤ Config.lineMax := by
  unfold storeChar
  by_cases hl : buf.length < Config.lineMax
  · simp [hl]
  · simpa [hl] using h

end Sys2Proof.Machine
end

