-- ==== Sys2Proof/Laws/PerInstr.lean ====
section
/-! SUPPORT. The statements made per instruction: an instruction is encoded in at least one byte unless it is a HEX line
of no characters. -/

namespace Sys2Proof.Laws

/-- A well-formed instruction's encoding has a byte. -/
def EncodingNonempty.Statement (i : Instr) : Prop := i.wellFormed = true → encode i ≠ []

theorem EncodingNonempty.opSync : EncodingNonempty.Statement .opSync := by
  simp [EncodingNonempty.Statement, encode, frameHeader]
theorem EncodingNonempty.opCr : EncodingNonempty.Statement .opCr := by
  simp [EncodingNonempty.Statement, encode, frameHeader]
theorem EncodingNonempty.opBaud (rate : Word) : EncodingNonempty.Statement (.opBaud rate) := by
  simp [EncodingNonempty.Statement, encode, frameHeader]
theorem EncodingNonempty.opLoad (address length : Word) : EncodingNonempty.Statement (.opLoad address length) := by
  simp [EncodingNonempty.Statement, encode, frameHeader]
theorem EncodingNonempty.opVfy (address size : Word) : EncodingNonempty.Statement (.opVfy address size) := by
  simp [EncodingNonempty.Statement, encode, frameHeader]
theorem EncodingNonempty.opRun (address : Word) : EncodingNonempty.Statement (.opRun address) := by
  simp [EncodingNonempty.Statement, encode, frameHeader]
theorem EncodingNonempty.ackOk : EncodingNonempty.Statement .ackOk := by
  simp [EncodingNonempty.Statement, encode]
theorem EncodingNonempty.ackEchoBaud : EncodingNonempty.Statement .ackEchoBaud := by
  simp [EncodingNonempty.Statement, encode]
theorem EncodingNonempty.crSequence : EncodingNonempty.Statement .crSequence := by
  simp [EncodingNonempty.Statement, encode]
theorem EncodingNonempty.errResponse : EncodingNonempty.Statement .errResponse := by
  simp [EncodingNonempty.Statement, encode]
theorem EncodingNonempty.vfyReadback (size : Word) : EncodingNonempty.Statement (.vfyReadback size) := by
  simp [EncodingNonempty.Statement, encode]
theorem EncodingNonempty.hexrec (line : List Byte) : EncodingNonempty.Statement (.hexrec line) := by
  cases line <;> simp [EncodingNonempty.Statement, encode, Instr.wellFormed, lineWellFormed]
theorem EncodingNonempty.hexData (offset : Half) (payload : List Byte) :
    EncodingNonempty.Statement (.hexData offset payload) := by
  simp [EncodingNonempty.Statement, encode, encodeLine]
theorem EncodingNonempty.hexEndOfFile (offset : Half) (payload : List Byte) :
    EncodingNonempty.Statement (.hexEndOfFile offset payload) := by
  simp [EncodingNonempty.Statement, encode, encodeLine]
theorem EncodingNonempty.hexExtendedSegmentAddress (offset : Half) (payload : List Byte) :
    EncodingNonempty.Statement (.hexExtendedSegmentAddress offset payload) := by
  simp [EncodingNonempty.Statement, encode, encodeLine]
theorem EncodingNonempty.hexStartSegmentAddress (offset : Half) (payload : List Byte) :
    EncodingNonempty.Statement (.hexStartSegmentAddress offset payload) := by
  simp [EncodingNonempty.Statement, encode, encodeLine]
theorem EncodingNonempty.hexExtendedLinearAddress (offset : Half) (payload : List Byte) :
    EncodingNonempty.Statement (.hexExtendedLinearAddress offset payload) := by
  simp [EncodingNonempty.Statement, encode, encodeLine]
theorem EncodingNonempty.hexStartLinearAddress (offset : Half) (payload : List Byte) :
    EncodingNonempty.Statement (.hexStartLinearAddress offset payload) := by
  simp [EncodingNonempty.Statement, encode, encodeLine]
theorem EncodingNonempty.hexUnknown (type : Byte) (offset : Half) (payload : List Byte) :
    EncodingNonempty.Statement (.hexUnknown type offset payload) := by
  simp [EncodingNonempty.Statement, encode, encodeLine]
theorem EncodingNonempty.hostOpen (rate : Word) : EncodingNonempty.Statement (.hostOpen rate) := by
  simp [EncodingNonempty.Statement, encode, encodeHost]
theorem EncodingNonempty.hostClose : EncodingNonempty.Statement .hostClose := by
  simp [EncodingNonempty.Statement, encode, encodeHost]
theorem EncodingNonempty.hostConnect : EncodingNonempty.Statement .hostConnect := by
  simp [EncodingNonempty.Statement, encode, encodeHost]
theorem EncodingNonempty.cmdSync : EncodingNonempty.Statement .cmdSync := by
  simp [EncodingNonempty.Statement, encode, encodeHost]
theorem EncodingNonempty.cmdCr : EncodingNonempty.Statement .cmdCr := by
  simp [EncodingNonempty.Statement, encode, encodeHost]
theorem EncodingNonempty.cmdBaud (rate : Word) : EncodingNonempty.Statement (.cmdBaud rate) := by
  simp [EncodingNonempty.Statement, encode, encodeHost]
theorem EncodingNonempty.cmdLoad (address length : Word) : EncodingNonempty.Statement (.cmdLoad address length) := by
  simp [EncodingNonempty.Statement, encode, encodeHost]
theorem EncodingNonempty.cmdVfy (address size : Word) : EncodingNonempty.Statement (.cmdVfy address size) := by
  simp [EncodingNonempty.Statement, encode, encodeHost]
theorem EncodingNonempty.cmdRun (vectorTableAddress : Word) :
    EncodingNonempty.Statement (.cmdRun vectorTableAddress) := by
  simp [EncodingNonempty.Statement, encode, encodeHost]
theorem EncodingNonempty.hexrun : EncodingNonempty.Statement .hexrun := by
  simp [EncodingNonempty.Statement, encode, encodeHost]
theorem EncodingNonempty.reservedHostOp (code : Nibble) : EncodingNonempty.Statement (.reservedHostOp code) := by
  simp [EncodingNonempty.Statement, encode, encodeHost]

end Sys2Proof.Laws
end

