-- ==== Sys2Proof/Laws/Step.lean ====
section
/-! SUPPORT. What one step can do, said once. -/

namespace Sys2Proof.Machine

/-- What MUF's turn can be. -/
theorem fetchMuf_cases (s : State) :
    (s.busy = true ∧ s.prog = [] ∧ fetchMuf s = .empty)
      ∨ (∃ st rest, s.busy = true ∧ s.prog = st :: rest ∧ fetchMuf s = fetchStmt st { s with prog := rest })
      ∨ (s.busy = false ∧ s.env.reqs = [] ∧ fetchMuf s = .idle s)
      ∨ (∃ q rest, s.busy = false ∧ s.env.reqs = q :: rest
        ∧ fetchMuf s = .instr (decodeHost q.op q.arg0 q.arg1) (takeRequest q rest s)) := by
  unfold fetchMuf
  cases hb : s.busy
  · cases hq : s.env.reqs with
    | nil => simp
    | cons q rest => exact .inr (.inr (.inr ⟨q, rest, rfl, rfl, by simp⟩))
  · cases hp : s.prog with
    | nil => simp
    | cons st rest => exact .inr (.inl ⟨st, rest, rfl, rfl, by simp⟩)

/-- A step is the environment's act, or MUF's turn. -/
theorem fetch_cases (s : State) :
    (s.env.script = [] ∧ fetch s = fetchMuf s)
      ∨ (∃ rest, s.env.script = .muf :: rest
        ∧ fetch s = fetchMuf { s with env := { s.env with script := rest } })
      ∨ (∃ a rest, s.env.script = .env a :: rest
        ∧ fetch s = .env a { s with env := { s.env with script := rest } }) := by
  unfold fetch
  cases hs : s.env.script with
  | nil => simp
  | cons x rest =>
    cases x with
    | muf => exact .inr (.inl ⟨rest, rfl, rfl⟩)
    | env a => exact .inr (.inr ⟨a, rest, rfl, rfl⟩)

theorem step_env {s t : State} {a : EnvAct} (h : fetch s = .env a t) : step s = .next (envStep a t) := by
  simp [step, h]

theorem step_instr {s t : State} {i : Instr} (h : fetch s = .instr i t) : step s = exec i t := by
  simp [step, h]

theorem step_micro {s t : State} {m : Micro} (h : fetch s = .micro m t) : step s = execMicro m t := by
  simp [step, h]

theorem step_idle {s t : State} (h : fetch s = .idle t) : step s = .next t := by
  simp [step, h]

theorem step_empty {s : State} (h : fetch s = .empty) : step s = .fault .noStatement := by
  simp [step, h]

/-- The next statement of an operation in flight, when MUF has the turn. -/
theorem fetch_busy {s : State} {st : Stmt} {rest : List Stmt} (hs : s.env.script = []) (hb : s.busy = true)
    (hp : s.prog = st :: rest) : fetch s = fetchStmt st { s with prog := rest } := by
  simp [fetch, fetchMuf, hs, hb, hp]

/-- An act of the environment other than reset changes the ports only. -/
theorem envStep_ports {a : EnvAct} (h : a ≠ .reset) (s : State) :
    envStep a s = { s with env := (envStep a s).env } := by
  cases a <;> first | rfl | exact absurd rfl h

end Sys2Proof.Machine
end

