-- ==== Sys2Proof/Tests/Slice0.lean ====
section
/-! SUPPORT. Tests.  The words and lines are written from 30_encoding.md and 95_test_vectors.md (the vector's id stands
beside each); then, for every statement that has hypotheses, a state and operands that meet them together. -/

open Sys2Proof Sys2Proof.Machine

namespace Sys2Proof.Tests

/-! ## Well-formedness: each check refuses a term -/

theorem test_wf_line_empty : Instr.wellFormed (.hexrec []) = false := by decide

theorem test_wf_line_two_lines : Instr.wellFormed (.hexrec [0x3A#8, 0x0A#8, 0x3A#8]) = false := by decide

theorem test_wf_data_payload :
    Instr.wellFormed (.hexData 0x0000#16 (List.replicate 256 0x00#8)) = false := by decide +kernel

theorem test_wf_end_of_file_payload :
    Instr.wellFormed (.hexEndOfFile 0x0000#16 (List.replicate 256 0x00#8)) = false := by decide +kernel

theorem test_wf_extended_segment_payload :
    Instr.wellFormed (.hexExtendedSegmentAddress 0x0000#16 (List.replicate 256 0x00#8)) = false := by decide +kernel

theorem test_wf_start_segment_payload :
    Instr.wellFormed (.hexStartSegmentAddress 0x0000#16 (List.replicate 256 0x00#8)) = false := by decide +kernel

theorem test_wf_extended_linear_payload :
    Instr.wellFormed (.hexExtendedLinearAddress 0x0000#16 [0x12#8]) = false := by decide

theorem test_wf_start_linear_payload :
    Instr.wellFormed (.hexStartLinearAddress 0x0000#16 [0x12#8, 0x34#8]) = false := by decide

theorem test_wf_unknown_type : Instr.wellFormed (.hexUnknown 0x05#8 0x0000#16 []) = false := by decide

theorem test_wf_unknown_payload :
    Instr.wellFormed (.hexUnknown 0x06#8 0x0000#16 (List.replicate 256 0x00#8)) = false := by decide +kernel

theorem test_wf_reserved_code : Instr.wellFormed (.reservedHostOp 0x9#4) = false := by decide

theorem test_wf_longest_payload :
    Instr.wellFormed (.hexData 0xFFFF#16 (List.replicate 255 0xFF#8)) = true := by decide +kernel

/-! ## Decoding: every constructor's word (R81 to R91) -/

theorem test_decode_op_sync : decode .wire [0x00#8] = .ok .opSync [] := by decide

theorem test_decode_op_cr : decode .wire [0x0D#8] = .ok .opCr [] := by decide

/-- R151: 115200 is 00 C2 01 00. -/
theorem test_decode_op_baud :
    decode .wire [0x42#8, 0x00#8, 0xC2#8, 0x01#8, 0x00#8] = .ok (.opBaud 115200#32) [] := by decide

/-- K13: the frame of cmd_load(0x00010010, [AA]). -/
theorem test_decode_op_load :
    decode .wire [0x4C#8, 0x10#8, 0x00#8, 0x01#8, 0x00#8, 0x01#8, 0x00#8, 0x00#8, 0x00#8, 0xAA#8] = .ok (.opLoad
      0x00010010#32 1#32) [] := by decide

/-- K16. -/
theorem test_decode_op_vfy :
    decode .wire [0x59#8, 0x04#8, 0x00#8, 0x00#8, 0x20#8, 0x03#8, 0x00#8, 0x00#8, 0x00#8] = .ok (.opVfy
      0x20000004#32 3#32) [] := by decide

/-- K19. -/
theorem test_decode_op_run :
    decode .wire [0x52#8, 0x00#8, 0x00#8, 0x00#8, 0x08#8] = .ok (.opRun 0x08000000#32) [] := by decide

theorem test_decode_ack_ok : decode (.response .ackOk) [0x4B#8] = .ok .ackOk [] := by decide

theorem test_decode_ack_echo_baud : decode (.response .ackEchoBaud) [0x42#8] = .ok .ackEchoBaud [] := by decide

theorem test_decode_cr_sequence :
    decode (.response .crSequence) [0x0D#8, 0x0A#8, 0x3E#8] = .ok .crSequence [] := by decide

/-- K16: a readback byte 0x45 is data. -/
theorem test_decode_vfy_readback :
    decode (.response (.readback 3#32)) [0x45#8, 0x0D#8, 0x4B#8, 0x4B#8] = .ok (.vfyReadback 3#32) [] := by decide

/-- W5: ERR_IND and the status byte after it. -/
theorem test_decode_err_response : decode (.response .ackOk) [0x45#8, 0x63#8] = .ok .errResponse [] := by decide

/-- R178, R89: ERR_IND at the response-test after a readback of 45 0D. -/
theorem test_decode_err_response_after_readback :
    decode (.response (.readback 2#32)) [0x45#8, 0x0D#8, 0x45#8, 0x69#8] = .ok .errResponse [] := by decide

/-- W12: the first byte decides before more are there. -/
theorem test_decode_cr_sequence_first_byte :
    decode (.response .crSequence) [0x0A#8] = .error (.unexpectedResponse 0x0D#8 0x0A#8) := by decide

/-- R131: one line, up to and including its 0x0A. -/
theorem test_decode_hexrec :
    decode .hexLine [0x3A#8, 0x30#8, 0x30#8, 0x30#8, 0x30#8, 0x30#8, 0x30#8, 0x30#8, 0x31#8, 0x46#8, 0x46#8, 0x0A#8,
      0x3A#8] = .ok (.hexrec [0x3A#8, 0x30#8, 0x30#8, 0x30#8, 0x30#8, 0x30#8, 0x30#8, 0x30#8, 0x31#8, 0x46#8, 0x46#8,
      0x0A#8]) [0x3A#8] := by decide

/-- V3: `:01001000AA45`. -/
theorem test_decode_record_data :
    decode .record [0x3A#8, 0x30#8, 0x31#8, 0x30#8, 0x30#8, 0x31#8, 0x30#8, 0x30#8, 0x30#8, 0x41#8, 0x41#8, 0x34#8,
      0x35#8] = .ok (.hexData 0x0010#16 [0xAA#8]) [] := by decide

/-- V1: `:00000001FF`. -/
theorem test_decode_record_end_of_file :
    decode .record [0x3A#8, 0x30#8, 0x30#8, 0x30#8, 0x30#8, 0x30#8, 0x30#8, 0x30#8, 0x31#8, 0x46#8, 0x46#8] = .ok
      (.hexEndOfFile 0x0000#16 []) [] := by decide

/-- V8: `:020000021000EC`. -/
theorem test_decode_record_extended_segment :
    decode .record [0x3A#8, 0x30#8, 0x32#8, 0x30#8, 0x30#8, 0x30#8, 0x30#8, 0x30#8, 0x32#8, 0x31#8, 0x30#8, 0x30#8,
      0x30#8, 0x45#8, 0x43#8] = .ok (.hexExtendedSegmentAddress 0x0000#16 [0x10#8, 0x00#8]) [] := by decide

/-- V9: `:0400000300000100F8`. -/
theorem test_decode_record_start_segment :
    decode .record [0x3A#8, 0x30#8, 0x34#8, 0x30#8, 0x30#8, 0x30#8, 0x30#8, 0x30#8, 0x33#8, 0x30#8, 0x30#8, 0x30#8,
      0x30#8, 0x30#8, 0x31#8, 0x30#8, 0x30#8, 0x46#8, 0x38#8] = .ok (.hexStartSegmentAddress 0x0000#16 [0x00#8,
      0x00#8, 0x01#8, 0x00#8]) [] := by decide

/-- V2: `:020000040001F9`. -/
theorem test_decode_record_extended_linear :
    decode .record [0x3A#8, 0x30#8, 0x32#8, 0x30#8, 0x30#8, 0x30#8, 0x30#8, 0x30#8, 0x34#8, 0x30#8, 0x30#8, 0x30#8,
      0x31#8, 0x46#8, 0x39#8] = .ok (.hexExtendedLinearAddress 0x0000#16 [0x00#8, 0x01#8]) [] := by decide

/-- V5: `:0400000508000000EF`. -/
theorem test_decode_record_start_linear :
    decode .record [0x3A#8, 0x30#8, 0x34#8, 0x30#8, 0x30#8, 0x30#8, 0x30#8, 0x30#8, 0x35#8, 0x30#8, 0x38#8, 0x30#8,
      0x30#8, 0x30#8, 0x30#8, 0x30#8, 0x30#8, 0x45#8, 0x46#8] = .ok (.hexStartLinearAddress 0x0000#16 [0x08#8, 0x00#8,
      0x00#8, 0x00#8]) [] := by decide

/-- V10: `:0100000601F8`. -/
theorem test_decode_record_unknown :
    decode .record [0x3A#8, 0x30#8, 0x31#8, 0x30#8, 0x30#8, 0x30#8, 0x30#8, 0x30#8, 0x36#8, 0x30#8, 0x31#8, 0x46#8,
      0x38#8] = .ok (.hexUnknown 0x06#8 0x0000#16 [0x01#8]) [] := by decide

/-- V15: `:01001000aa45`. -/
theorem test_decode_record_lower_case :
    decode .record [0x3A#8, 0x30#8, 0x31#8, 0x30#8, 0x30#8, 0x31#8, 0x30#8, 0x30#8, 0x30#8, 0x61#8, 0x61#8, 0x34#8,
      0x35#8] = .ok (.hexData 0x0010#16 [0xAA#8]) [] := by decide

/-- V16: `:00000001FF`. -/
theorem test_decode_record_terminated :
    decode .record [0x3A#8, 0x30#8, 0x30#8, 0x30#8, 0x30#8, 0x30#8, 0x30#8, 0x30#8, 0x31#8, 0x46#8, 0x46#8, 0x0D#8,
      0x0A#8] = .ok (.hexEndOfFile 0x0000#16 []) [] := by decide

/-- V11: `:02FFFF000102FD`. -/
theorem test_decode_record_offset :
    decode .record [0x3A#8, 0x30#8, 0x32#8, 0x46#8, 0x46#8, 0x46#8, 0x46#8, 0x30#8, 0x30#8, 0x30#8, 0x31#8, 0x30#8,
      0x32#8, 0x46#8, 0x44#8] = .ok (.hexData 0xFFFF#16 [0x01#8, 0x02#8]) [] := by decide

theorem test_decode_host_open :
    decode .host [0x00#8, 0x80#8, 0x25#8, 0x00#8, 0x00#8, 0x00#8, 0x00#8, 0x00#8, 0x00#8] = .ok (.hostOpen 9600#32)
      [] := by decide

theorem test_decode_host_close :
    decode .host [0x01#8, 0x00#8, 0x00#8, 0x00#8, 0x00#8, 0x00#8, 0x00#8, 0x00#8, 0x00#8] = .ok .hostClose
      [] := by decide

theorem test_decode_host_connect :
    decode .host [0x02#8, 0x00#8, 0x00#8, 0x00#8, 0x00#8, 0x00#8, 0x00#8, 0x00#8, 0x00#8] = .ok .hostConnect
      [] := by decide

theorem test_decode_host_cmd_sync :
    decode .host [0x03#8, 0x00#8, 0x00#8, 0x00#8, 0x00#8, 0x00#8, 0x00#8, 0x00#8, 0x00#8] = .ok .cmdSync
      [] := by decide

theorem test_decode_host_cmd_cr :
    decode .host [0x04#8, 0x00#8, 0x00#8, 0x00#8, 0x00#8, 0x00#8, 0x00#8, 0x00#8, 0x00#8] = .ok .cmdCr
      [] := by decide

theorem test_decode_host_cmd_baud :
    decode .host [0x05#8, 0x00#8, 0xC2#8, 0x01#8, 0x00#8, 0x00#8, 0x00#8, 0x00#8, 0x00#8] = .ok (.cmdBaud 115200#32)
      [] := by decide

theorem test_decode_host_cmd_load :
    decode .host [0x06#8, 0x10#8, 0x00#8, 0x01#8, 0x00#8, 0x01#8, 0x00#8, 0x00#8, 0x00#8] = .ok (.cmdLoad
      0x00010010#32 1#32) [] := by decide

theorem test_decode_host_cmd_vfy :
    decode .host [0x07#8, 0x04#8, 0x00#8, 0x00#8, 0x20#8, 0x03#8, 0x00#8, 0x00#8, 0x00#8] = .ok (.cmdVfy
      0x20000004#32 3#32) [] := by decide

theorem test_decode_host_cmd_run :
    decode .host [0x08#8, 0x00#8, 0x00#8, 0x00#8, 0x08#8, 0x00#8, 0x00#8, 0x00#8, 0x00#8] = .ok (.cmdRun
      0x08000000#32) [] := by decide

theorem test_decode_host_hexrun :
    decode .host [0x09#8, 0x00#8, 0x00#8, 0x00#8, 0x00#8, 0x00#8, 0x00#8, 0x00#8, 0x00#8] = .ok .hexrun
      [] := by decide

theorem test_decode_host_reserved :
    decode .host [0x0C#8, 0x00#8, 0x00#8, 0x00#8, 0x00#8, 0x00#8, 0x00#8, 0x00#8, 0x00#8] = .ok (.reservedHostOp
      0xC#4) [] := by decide

/-! ## Lines that fail (X vectors) and bytes no decoder accepts -/

/-- ` :00000001FF` -/
theorem test_X3_is_malformed :
    decodeLine [0x20#8, 0x3A#8, 0x30#8, 0x30#8, 0x30#8, 0x30#8, 0x30#8, 0x30#8, 0x30#8, 0x31#8, 0x46#8, 0x46#8] =
      .malformed .mark := by decide

/-- `:0` -/
theorem test_X7_is_malformed : decodeLine [0x3A#8, 0x30#8] = .malformed .length := by decide

/-- `:0000000100FF` -/
theorem test_X9_is_malformed :
    decodeLine [0x3A#8, 0x30#8, 0x30#8, 0x30#8, 0x30#8, 0x30#8, 0x30#8, 0x30#8, 0x31#8, 0x30#8, 0x30#8, 0x46#8,
      0x46#8] = .malformed .length := by decide

/-- `:00000001FFZ` -/
theorem test_X12_is_malformed :
    decodeLine [0x3A#8, 0x30#8, 0x30#8, 0x30#8, 0x30#8, 0x30#8, 0x30#8, 0x30#8, 0x31#8, 0x46#8, 0x46#8, 0x5A#8] =
      .malformed .length := by decide

/-- `:0G` -/
theorem test_X14_is_malformed : decodeLine [0x3A#8, 0x30#8, 0x47#8] = .malformed .digit := by decide

/-- `:0000000GFE` -/
theorem test_X17_is_malformed :
    decodeLine [0x3A#8, 0x30#8, 0x30#8, 0x30#8, 0x30#8, 0x30#8, 0x30#8, 0x30#8, 0x47#8, 0x46#8, 0x45#8] = .malformed
      .digit := by decide

/-- `:01001000AB45` -/
theorem test_X19_is_malformed :
    decodeLine [0x3A#8, 0x30#8, 0x31#8, 0x30#8, 0x30#8, 0x31#8, 0x30#8, 0x30#8, 0x30#8, 0x41#8, 0x42#8, 0x34#8,
      0x35#8] = .malformed .checksum := by decide

/-- `;0G` -/
theorem test_X28_is_malformed : decodeLine [0x3B#8, 0x30#8, 0x47#8] = .malformed .mark := by decide

/-- R94: no other byte selects a command. -/
theorem test_decode_wire_rejects : decode .wire [0x41#8] = .error (.notAWireOpcode 0x41#8) := by decide

theorem test_decode_host_rejects : decode .host [0x10#8] = .error (.notAHostCode 0x10#8) := by decide

/-! ## One step of an instruction -/

/-- An Idle session, nothing waiting. -/
def idle : State := { State.reset with sess := .idle, baudCur := 9600#32 }

/-- An Idle session with the bytes `rx` waiting. -/
def idleRx (rx : List Byte) : State := { idle with env := { Env.quiet with rx := rx } }

/-- An operation in flight in session state `x`, with `prog` to run and the bytes `rx` waiting. -/
def busyIn (x : Sess) (prog : List Stmt) (rx : List Byte) : State :=
  { State.reset with sess := x, busy := true, prog := prog, env := { Env.quiet with rx := rx } }

/-- A HEXRUN in progress in session state `x`. -/
def hexrunIn (x : Sess) : State :=
  { State.reset with sess := x, hsActive := true, busy := true, opCur := 0x9#4 }

/-- A field of the next state. -/
def ask {α : Type} (a : Answer) (f : State → α) : Option α :=
  match a with
  | .next t => some (f t)
  | _ => none

/-- R179: the opcode is sent and recorded; a response-test and four address bytes follow. -/
theorem test_op_run_sends_opcode :
    ask (exec (.opRun 0x08000000#32) idle) (fun t => (t.out.tp, t.lastCmd, t.prog.length)) = some ([.tx 0x52#8],
      0x52#8, 7) := by decide

/-- K14. -/
theorem test_ack_ok_mismatch :
    ask (exec .ackOk { busyIn .loading [] [] with rtByte := 0x4C#8 }) (fun t => (t.stCause, t.stExp, t.stAct,
      t.sess)) = some (.protocolError, 0x4B#8, 0x4C#8, .disconnected) := by decide

/-- W18. -/
theorem test_ack_echo_baud_mismatch :
    ask (exec .ackEchoBaud { busyIn .settingBaud [] [] with rtByte := 0x4B#8 }) (fun t => (t.stCause, t.stExp,
      t.stAct)) = some (.protocolError, 0x42#8, 0x4B#8) := by decide

/-- W12: nothing more is read. -/
theorem test_cr_sequence_first_byte :
    ask (exec .crSequence { busyIn .connecting [] [0x3E#8, 0x0D#8] with rtByte := 0x0A#8 }) (fun t => (t.stExp,
      t.stAct, t.env.rx)) = some (0x0D#8, 0x0A#8, [0x3E#8, 0x0D#8]) := by decide

/-- W19, K11. -/
theorem test_err_response_code :
    ask (exec .errResponse (busyIn .settingBaud [] [0x62#8])) (fun t => (t.stCause, t.stCode, t.sess, t.anyFault)) =
      some (.deviceError, 0x62#8, .disconnected, true) := by decide

/-- S4, H2. -/
theorem test_data_address :
    ask (exec (.hexData 0x0010#16 [0xAA#8]) { hexrunIn .idle with abase := 0x00010000#32 }) (fun t => (t.p0, t.p1,
      t.sess)) = some (0x00010010#32, 1#32, .loading) := by decide

/-- H15. -/
theorem test_data_refused_when_disconnected :
    ask (exec (.hexData 0x0010#16 [0xAA#8]) (hexrunIn .disconnected)) (fun t => (t.stCause, t.stCode, t.stOp,
      t.out.tp)) = some (.refused, 0x06#8, 0x9#4, []) := by decide

/-- V12, H4. -/
theorem test_extended_linear_base :
    ask (exec (.hexExtendedLinearAddress 0x0000#16 [0xFF#8, 0xFF#8]) idle) (fun t => t.abase) = some
      0xFFFF0000#32 := by decide

/-- V18, H7. -/
theorem test_extended_linear_short :
    ask (exec (.hexExtendedLinearAddress 0x0000#16 [0x12#8]) (hexrunIn .idle)) (fun t => (t.stCause, t.stSub,
      t.sess, t.anyFault)) = some (.malformedRecord, 4#3, .idle, true) := by decide

/-- V5, R138. -/
theorem test_start_linear_address :
    ask (exec (.hexStartLinearAddress 0x0000#16 [0x08#8, 0x00#8, 0x00#8, 0x00#8]) (hexrunIn .idle)) (fun t => t.p0)
      = some 0x08000000#32 := by decide

/-- P4, line 3: the accumulator ends at 0x11. -/
theorem test_hexrec_checksum :
    ask (exec (.hexrec [0x3A#8, 0x30#8, 0x31#8, 0x30#8, 0x30#8, 0x31#8, 0x31#8, 0x30#8, 0x30#8, 0x42#8, 0x42#8,
      0x34#8, 0x34#8]) (hexrunIn .idle)) (fun t => (t.stCause, t.stSub, t.cksAcc, t.sess, t.hsActive)) = some
      (.malformedRecord, 2#3, 0x11#8, .idle, false) := by decide

/-- V6. -/
theorem test_hexrec_record :
    ask (exec (.hexrec [0x3A#8, 0x30#8, 0x34#8, 0x30#8, 0x30#8, 0x30#8, 0x30#8, 0x30#8, 0x30#8, 0x44#8, 0x45#8,
      0x41#8, 0x44#8, 0x42#8, 0x45#8, 0x45#8, 0x46#8, 0x43#8, 0x34#8]) idle) (fun t => (t.recLen, t.recType, t.recCks,
      recPayload t)) = some (0x04#8, 0x00#8, 0xC4#8, [0xDE#8, 0xAD#8, 0xBE#8, 0xEF#8]) := by decide

/-- K2. -/
theorem test_open_refused_in_idle :
    ask (exec (.hostOpen 9600#32) idle) (fun t => (t.stCause, t.stCode, t.sess, t.busy)) = some (.refused, 0x00#8,
      .idle, false) := by decide

/-- K7. -/
theorem test_connect_refused_in_idle :
    ask (exec .hostConnect idle) (fun t => (t.stCause, t.stCode)) = some (.refused, 0x02#8) := by decide

/-- R170. -/
theorem test_close_refused_in_closed :
    ask (exec .hostClose State.reset) (fun t => (t.stCause, t.stCode)) = some (.refused, 0x01#8) := by decide

/-- K23. -/
theorem test_reserved_code_refused :
    ask (exec (.reservedHostOp 0xC#4) idle) (fun t => (t.stCause, t.stCode, t.anyFault)) = some (.refused, 0x0C#8,
      false) := by decide

/-- K21. -/
theorem test_cmd_run_refused_in_running :
    ask (exec (.cmdRun 0x08000000#32) { idle with sess := .running }) (fun t => (t.stCause, t.stCode, t.sess,
      t.out.tp)) = some (.refused, 0x08#8, .running, []) := by decide

/-- R177. -/
theorem test_cmd_load_starts_loading :
    ask (exec (.cmdLoad 0x20000000#32 3#32) idle) (fun t => (t.sess, t.p0, t.p1, t.opCur, t.busy)) = some (.loading,
      0x20000000#32, 3#32, 0x6#4, true) := by decide

/-- R178. -/
theorem test_cmd_vfy_starts_verifying :
    ask (exec (.cmdVfy 0x20000004#32 3#32) idle) (fun t => (t.sess, t.p0, t.p1)) = some (.verifying, 0x20000004#32,
      3#32) := by decide

/-- R176: the rate changes only at the reopen. -/
theorem test_cmd_baud_starts_setting :
    ask (exec (.cmdBaud 115200#32) idle) (fun t => (t.sess, t.baudCur)) = some (.settingBaud, 9600#32) := by decide

/-- R130. -/
theorem test_hexrun_starts :
    ask (exec .hexrun { State.reset with abase := 0x00010000#32, eofSeen := true }) (fun t => (t.hsActive,
      t.eofSeen, t.abase, t.sess)) = some (true, false, 0#32, .closed) := by decide

/-! ## A word of the opcode table, placed where `step` fetches it -/

theorem test_table_word_run : decodeTableWord 8 0x52 = some (.opRun 0#32) := by decide

/-- The table writes A3 with its first byte highest. -/
theorem test_table_word_cr_sequence : decodeTableWord 24 0x0D0A3E = some .crSequence := by decide

theorem test_table_word_hexrun :
    ask (step (State.reset.withFetchWord 8 0x09)) (fun t => (t.hsActive, t.opCur)) = some (true, 0x9#4) := by decide

theorem test_table_word_vfy :
    ask (step (State.reset.withFetchWord 8 0x59)) (fun t => t.out.tp) = some [.tx 0x59#8] := by decide

/-! ## Hypotheses that can be met: one witness for each statement that has hypotheses -/

/-- The hypothesis `attended` of the statements about runs is met after reset. -/
theorem test_attended_after_reset : State.reset.attended := ⟨rfl, rfl, rfl, rfl, rfl⟩

/-- The longest payload and the greatest type. -/
theorem test_witness_DecodeOfEncodeIsTheInstruction :
    ∃ i j k l : Instr, i = .hexUnknown 0xFF#8 0xFFFF#16 (List.replicate 255 0xFF#8) ∧ i.wellFormed = true
      ∧ j = .hexUnknown 0x06#8 0x0000#16 [] ∧ j.wellFormed = true
      ∧ k = .reservedHostOp 0xA#4 ∧ k.wellFormed = true ∧ l = .hexrec [0x0A#8] ∧ l.wellFormed = true :=
  ⟨_, _, _, _, rfl, by decide +kernel, rfl, by decide, rfl, by decide, rfl, by decide⟩

/-- V15 with a terminator: `:01001000aa45\n`; and a payload of 255 bytes. -/
theorem test_witness_HexLineRoundTrip :
    (∃ payload : List Byte, payload = List.replicate 255 0xFF#8 ∧ payload.length ≤ 255)
    ∧ ∃ line r, decodeLine line = .record r ∧ ∃ c ∈ line, (0x61 ≤ c.toNat ∧ c.toNat ≤ 0x66) ∨ c = 0x0D#8 ∨ c = 0x0A#8 :=
  ⟨⟨_, rfl, by decide +kernel⟩,
    ⟨[0x3A#8, 0x30#8, 0x31#8, 0x30#8, 0x30#8, 0x31#8, 0x30#8, 0x30#8, 0x30#8, 0x61#8, 0x61#8, 0x34#8, 0x35#8, 0x0A#8],
      { len := 0x01#8, off := 0x0010#16, type := 0x00#8, payload := [0xAA#8], cks := 0x45#8 }, by decide,
      0x61#8, by decide, by decide⟩⟩

/-- X5 `;00000001FF`, X7 `:0`, X14 `:0G`, X9 `:0000000100FF`, X15 `:0000000GFF`, X18 `:00000001FE`, V1 `:00000001FF`:
each meets the hypotheses of one clause, with the terminator 0D 0A. -/
theorem test_witness_DecodeReportsTheFirstFailingCheck :
    (∃ s : List Byte, s.getLast? ≠ some 0x0D#8 ∧ s.getLast? ≠ some 0x0A#8 ∧ s.head? ≠ some 0x3A#8)
    ∧ (∃ c ∈ ([0x0D#8, 0x0A#8] : List Byte), c = 0x0D#8 ∨ c = 0x0A#8)
    ∧ (∃ body : List Byte, body = [0x30#8] ∧ body.length < 2)
    ∧ (∃ c0 c1 : Byte, hexVal c0 ≠ none ∧ hexVal c1 = none)
    ∧ (∃ (body : List Byte) (ll : Byte), body = List.replicate 12 0x30#8 ∧ hexByte 0x30#8 0x30#8 = some ll
        ∧ body.length ≠ 2 * (5 + ll.toNat))
    ∧ (∃ (body : List Byte) (ll : Byte), body = List.replicate 9 0x30#8 ++ [0x47#8] ∧ hexByte 0x30#8 0x30#8 = some ll
        ∧ body.length = 2 * (5 + ll.toNat) ∧ ∃ c ∈ body, hexVal c = none)
    ∧ (∃ (body bs : List Byte),
        body = [0x30#8, 0x30#8, 0x30#8, 0x30#8, 0x30#8, 0x30#8, 0x30#8, 0x31#8, 0x46#8, 0x45#8] ∧ bs.length = 5
        ∧ (∀ j, j < 5 → hexByte (body.getD (2 * j) 0#8) (body.getD (2 * j + 1) 0#8) = some (bs.getD j 0#8))
        ∧ (bs.map BitVec.toNat).sum % 256 ≠ 0)
    ∧ (∃ (body bs : List Byte),
        body = [0x30#8, 0x30#8, 0x30#8, 0x30#8, 0x30#8, 0x30#8, 0x30#8, 0x31#8, 0x46#8, 0x46#8] ∧ bs.length = 5
        ∧ (∀ j, j < 5 → hexByte (body.getD (2 * j) 0#8) (body.getD (2 * j + 1) 0#8) = some (bs.getD j 0#8))
        ∧ (bs.map BitVec.toNat).sum % 256 = 0) :=
  ⟨⟨[0x3B#8, 0x30#8], by decide, by decide, by decide⟩, ⟨0x0D#8, by decide, by decide⟩, ⟨_, rfl, by decide⟩,
    ⟨0x30#8, 0x47#8, by decide, by decide⟩, ⟨_, 0#8, rfl, by decide, by decide⟩,
    ⟨_, 0#8, rfl, by decide, by decide, 0x47#8, by decide, by decide⟩,
    ⟨_, [0x00#8, 0x00#8, 0x00#8, 0x01#8, 0xFE#8], rfl, by decide, by decide, by decide⟩,
    ⟨_, [0x00#8, 0x00#8, 0x00#8, 0x01#8, 0xFF#8], rfl, by decide, by decide, by decide⟩⟩

/-- V3 `:01001000AA45` and X20, X27 (bits 0 and 7 of its checksum flipped). -/
theorem test_witness_ChecksumBitFlipFailsDecode :
    ∃ (line flipped flipped' bs : List Byte) (c : Byte) (r : HexRecord),
      decodeLine line = .record r ∧ lineBytes line = .bytes (bs ++ [c])
      ∧ lineBytes flipped = .bytes (bs ++ [c ^^^ (1#8 <<< 0)]) ∧ lineBytes flipped' = .bytes (bs ++ [c ^^^ (1#8 <<< 7)]) :=
  ⟨[0x3A#8, 0x30#8, 0x31#8, 0x30#8, 0x30#8, 0x31#8, 0x30#8, 0x30#8, 0x30#8, 0x41#8, 0x41#8, 0x34#8, 0x35#8],
    [0x3A#8, 0x30#8, 0x31#8, 0x30#8, 0x30#8, 0x31#8, 0x30#8, 0x30#8, 0x30#8, 0x41#8, 0x41#8, 0x34#8, 0x34#8],
    [0x3A#8, 0x30#8, 0x31#8, 0x30#8, 0x30#8, 0x31#8, 0x30#8, 0x30#8, 0x30#8, 0x41#8, 0x41#8, 0x43#8, 0x35#8],
    [0x01#8, 0x00#8, 0x10#8, 0x00#8, 0xAA#8], 0x45#8,
    { len := 0x01#8, off := 0x0010#16, type := 0x00#8, payload := [0xAA#8], cks := 0x45#8 },
    by decide, by decide, by decide, by decide⟩

/-- A state for each of the four sources of an instruction. -/
theorem test_witness_StepRunsTheFetchedInstruction :
    (∃ s : State, s.env.script = [] ∧ s.busy = false ∧ ∃ q rest, s.env.reqs = q :: rest)
    ∧ (∃ s : State, s.env.script = [] ∧ s.busy = true ∧ ∃ i rest, s.prog = .run i :: rest)
    ∧ (∃ s : State, s.env.script = [] ∧ s.busy = true ∧ ∃ rest, s.prog = .decodeLine :: rest)
    ∧ (∃ s : State, s.env.script = [] ∧ s.busy = true ∧ ∃ rest, s.prog = .act :: rest) :=
  ⟨⟨{ idle with env := { Env.quiet with reqs := [{ op := 0xF#4, arg0 := 0#32, arg1 := 0#32 }] } }, rfl, rfl, _, _, rfl⟩,
    ⟨busyIn .idle [.run .opCr] [], rfl, rfl, _, _, rfl⟩, ⟨busyIn .idle [.decodeLine] [], rfl, rfl, _, rfl⟩,
    ⟨busyIn .idle [.act] [], rfl, rfl, _, rfl⟩⟩

/-- Silence in a mandatory test and in connect's; W3 `4B`; W5 `45 63`; W8 `45` with TP's timeout raised. -/
theorem test_witness_ResponseTestScreensOneByte :
    (∃ s : State, s.attended ∧ s.busy = true ∧ s.prog = responseTest true ++ [] ∧ s.env.rx = [])
    ∧ (∃ s : State, s.attended ∧ s.busy = true ∧ s.prog = responseTest false ++ [] ∧ s.env.rx = [])
    ∧ (∃ s : State, s.attended ∧ s.busy = true ∧ s.prog = responseTest true ++ [] ∧ s.env.rx = 0x4B#8 :: [])
    ∧ (∃ s : State, s.attended ∧ s.busy = true ∧ s.prog = responseTest true ++ [] ∧ s.env.rx = 0x45#8 :: 0x63#8 :: [])
    ∧ (∃ s : State, s.attended ∧ s.busy = true ∧ s.prog = responseTest true ++ [] ∧ s.env.rx = [0x45#8]
        ∧ s.env.rxTmo = true) :=
  ⟨⟨busyIn .idle (responseTest true ++ []) [], ⟨rfl, rfl, rfl, rfl, rfl⟩, rfl, rfl, rfl⟩,
    ⟨busyIn .connecting (responseTest false ++ []) [], ⟨rfl, rfl, rfl, rfl, rfl⟩, rfl, rfl, rfl⟩,
    ⟨busyIn .idle (responseTest true ++ []) [0x4B#8], ⟨rfl, rfl, rfl, rfl, rfl⟩, rfl, rfl, rfl⟩,
    ⟨busyIn .idle (responseTest true ++ []) [0x45#8, 0x63#8], ⟨rfl, rfl, rfl, rfl, rfl⟩, rfl, rfl, rfl⟩,
    ⟨{ busyIn .idle (responseTest true ++ []) [] with env := { Env.quiet with rx := [0x45#8], rxTmo := true } },
      ⟨rfl, rfl, rfl, rfl, rfl⟩, rfl, rfl, rfl, rfl⟩⟩

/-- W12; W9, W10 `0A 00` and W13 `00 00`; TP's timeout with none and with one of the two bytes there. -/
theorem test_witness_CrSequenceIsCheckedInOrder :
    (∃ s : State, s.attended ∧ s.busy = true ∧ s.rtByte ≠ 0x0D#8)
    ∧ (∃ f : Byte → Byte → State, ∀ x y, (x, y) ∈ [(0x0A#8, 0x3E#8), (0x0A#8, 0x00#8), (0x00#8, 0x00#8)] →
        (f x y).attended ∧ (f x y).busy = true ∧ (f x y).rtByte = 0x0D#8 ∧ (f x y).env.rx = x :: y :: [])
    ∧ (∃ s : State, s.attended ∧ s.busy = true ∧ s.rtByte = 0x0D#8 ∧ s.env.rxTmo = true ∧ s.env.rx = [])
    ∧ (∃ s : State, s.attended ∧ s.busy = true ∧ s.rtByte = 0x0D#8 ∧ s.env.rxTmo = true ∧ s.env.rx = [0x0A#8]) :=
  ⟨⟨{ busyIn .idle [] [] with rtByte := 0x0A#8 }, ⟨rfl, rfl, rfl, rfl, rfl⟩, rfl, by decide⟩,
    ⟨fun x y => { busyIn .idle [] [x, y] with rtByte := 0x0D#8 }, fun _ _ _ => ⟨⟨rfl, rfl, rfl, rfl, rfl⟩, rfl, rfl, rfl⟩⟩,
    ⟨{ busyIn .idle [] [] with rtByte := 0x0D#8, env := { Env.quiet with rxTmo := true } },
      ⟨rfl, rfl, rfl, rfl, rfl⟩, rfl, rfl, rfl, rfl⟩,
    ⟨{ busyIn .idle [] [] with rtByte := 0x0D#8, env := { Env.quiet with rxTmo := true, rx := [0x0A#8] } },
      ⟨rfl, rfl, rfl, rfl, rfl⟩, rfl, rfl, rfl, rfl⟩⟩

/-- A status byte waiting; none, without and with TP's timeout. -/
theorem test_witness_ErrorIndicatorEndsInDeviceError :
    (∃ s : State, s.env.doneReady = true ∧ ∃ c more, s.env.rx = c :: more)
    ∧ (∃ s : State, s.env.doneReady = true ∧ s.env.rx = [] ∧ s.env.rxTmo = false)
    ∧ (∃ s : State, s.env.doneReady = true ∧ s.env.rx = [] ∧ s.env.rxTmo = true) :=
  ⟨⟨busyIn .idle [] [0x4B#8], rfl, _, _, rfl⟩, ⟨busyIn .idle [] [], rfl, rfl, rfl⟩,
    ⟨{ busyIn .idle [] [] with env := { Env.quiet with rxTmo := true } }, rfl, rfl, rfl⟩⟩

/-- A host that takes the report and one that does not. -/
theorem test_witness_ErrorEntryChangesOnlyWhatItSays :
    (∃ s : State, s.env.doneReady = true) ∧ ∃ s : State, s.env.doneReady = false :=
  ⟨⟨idle, rfl⟩, ⟨{ idle with env := { Env.quiet with doneReady := false } }, rfl⟩⟩

/-- Each expected byte, and one that is neither. -/
theorem test_witness_AcknowledgementsAreCompared :
    (∃ s : State, s.env.doneReady = true ∧ s.rtByte = 0x4B#8) ∧ (∃ s : State, s.env.doneReady = true ∧ s.rtByte = 0x42#8)
    ∧ ∃ s : State, s.env.doneReady = true ∧ s.rtByte ≠ 0x4B#8 ∧ s.rtByte ≠ 0x42#8 :=
  ⟨⟨{ idle with rtByte := 0x4B#8 }, rfl, rfl⟩, ⟨{ idle with rtByte := 0x42#8 }, rfl, rfl⟩,
    ⟨{ idle with rtByte := 0x4C#8 }, rfl, by decide, by decide⟩⟩

/-- K16's readback and an empty one (K17), each with the acknowledgement 4B, K18's 59, and 45 69. -/
theorem test_witness_ReadbackBytesReachTheHost :
    ∃ f : List Byte → List Byte → State,
      ∀ readback ∈ [[0x45#8, 0x0D#8, 0x4B#8], []], ∀ answer ∈ [[0x4B#8], [0x59#8], [0x45#8, 0x69#8]],
        (f readback answer).attended ∧ (f readback answer).busy = true
        ∧ readback.length = (BitVec.ofNat 32 readback.length).toNat
        ∧ (f readback answer).env.rx = readback ++ answer ∧ (0x59#8 : Byte) ≠ 0x45#8 ∧ (0x59#8 : Byte) ≠ 0x4B#8 :=
  ⟨fun readback answer => busyIn .verifying [] (readback ++ answer), fun readback h _ _ =>
    ⟨⟨rfl, rfl, rfl, rfl, rfl⟩, rfl, by revert readback; decide, rfl, by decide, by decide⟩⟩

/-- A frame with parameters and one without; TP ready and not. -/
theorem test_witness_OpcodeByteIsSentAndRecorded :
    (∃ op params, frameHeader (.opLoad 0xFFFFFFFF#32 0xFFFFFFFF#32) = op :: params)
    ∧ (∃ op params, frameHeader .opSync = op :: params)
    ∧ (∃ s : State, s.env.txReady = true) ∧ ∃ s : State, s.env.txReady = false :=
  ⟨⟨_, _, rfl⟩, ⟨_, _, rfl⟩, ⟨idle, rfl⟩, ⟨{ idle with env := { Env.quiet with txReady := false } }, rfl⟩⟩

/-- W17 (a first answer that is not the echo) and W18. -/
theorem test_witness_BaudExchange :
    ∃ (s s' : State) (x y y' : Byte),
      s.attended ∧ s.busy = true ∧ s.env.rx = x :: y :: [] ∧ x ≠ 0x45#8 ∧ y ≠ 0x45#8 ∧ y = 0x42#8
      ∧ s'.attended ∧ s'.busy = true ∧ s'.env.rx = x :: y' :: [] ∧ y' ≠ 0x45#8 ∧ y' ≠ 0x42#8 :=
  ⟨busyIn .settingBaud [] [0x00#8, 0x42#8], busyIn .settingBaud [] [0x00#8, 0x4B#8], 0x00#8, 0x42#8, 0x4B#8,
    ⟨rfl, rfl, rfl, rfl, rfl⟩, rfl, rfl, by decide, by decide, rfl, ⟨rfl, rfl, rfl, rfl, rfl⟩, rfl, rfl, by decide,
    by decide⟩

/-- The longest payload a record has, and none; the right acknowledgement and K14's. -/
theorem test_witness_WiredLoadExchange :
    ∃ (s s' : State) (ack ack' : Byte),
      s.attended ∧ s.busy = true ∧ s.hsActive = true ∧ (255#32).toNat ≤ 255
      ∧ s.env.rx = 0x4C#8 :: 0x4C#8 :: 0x4C#8 :: ack :: [] ∧ ack ≠ 0x45#8 ∧ ack = 0x4B#8
      ∧ s'.attended ∧ s'.busy = true ∧ s'.hsActive = true ∧ (0#32).toNat ≤ 255
      ∧ s'.env.rx = 0x4C#8 :: 0x4C#8 :: 0x4C#8 :: ack' :: [] ∧ ack' ≠ 0x45#8 ∧ ack' ≠ 0x4B#8 :=
  ⟨{ busyIn .loading [] [0x4C#8, 0x4C#8, 0x4C#8, 0x4B#8] with hsActive := true },
    { busyIn .loading [] [0x4C#8, 0x4C#8, 0x4C#8, 0x4C#8] with hsActive := true }, 0x4B#8, 0x4C#8,
    ⟨rfl, rfl, rfl, rfl, rfl⟩, rfl, rfl, by decide, rfl, by decide, rfl,
    ⟨rfl, rfl, rfl, rfl, rfl⟩, rfl, rfl, by decide, rfl, by decide, by decide⟩

/-- V1 `:00000001FF`, in the state after reset. -/
theorem test_witness_ValidLineWritesTheRecordRegisters :
    ∃ (line : List Byte) (r : HexRecord), decodeLine line = .record r ∧ Memory.wf State.reset.recPay = true :=
  ⟨[0x3A#8, 0x30#8, 0x30#8, 0x30#8, 0x30#8, 0x30#8, 0x30#8, 0x30#8, 0x31#8, 0x46#8, 0x46#8],
    { len := 0x00#8, off := 0x0000#16, type := 0x01#8, payload := [], cks := 0xFF#8 }, by decide, by decide⟩

/-- X6 `:`. -/
theorem test_witness_InvalidLineRaisesMalformedRecord :
    ∃ (line : List Byte) (sub : MalSub), decodeLine line = .malformed sub ∧ State.reset.env.doneReady = true :=
  ⟨[0x3A#8], .length, by decide, rfl⟩

/-- H4: ABASE 0xFFFF0000. -/
theorem test_witness_DataRecordStartsALoad :
    ∃ s : State, s.sess = .idle ∧ s.abase = 0xFFFF0000#32 ∧ s.abase.extractLsb' 0 16 = 0#16 :=
  ⟨{ idle with abase := 0xFFFF0000#32 }, rfl, rfl, by decide⟩

/-- An Idle session; payloads of 3 and of 5 bytes. -/
theorem test_witness_StartLinearAddressStartsARun :
    idle.sess = .idle ∧ idle.env.doneReady = true ∧ (List.replicate 3 0x00#8).length ≠ 4
      ∧ (List.replicate 5 0x00#8).length ≠ 4 :=
  ⟨rfl, rfl, by decide, by decide⟩

/-- H12 (Running) and H15 (Disconnected). -/
theorem test_witness_EventOutsideIdleIsRefused :
    ∃ s s' : State, s.sess = .running ∧ s.sess ≠ .idle ∧ s.env.doneReady = true
      ∧ s'.sess = .disconnected ∧ s'.sess ≠ .idle ∧ s'.env.doneReady = true :=
  ⟨{ idle with sess := .running }, { idle with sess := .disconnected }, rfl, by decide, rfl, rfl, by decide, rfl⟩

/-- Payloads of 1 and of 3 bytes. -/
theorem test_witness_ExtendedLinearAddressSetsTheBase :
    idle.env.doneReady = true ∧ (List.replicate 1 0x00#8).length ≠ 2 ∧ (List.replicate 3 0x00#8).length ≠ 2 :=
  ⟨rfl, by decide, by decide⟩

/-- After an EndOfFile record; after another, taken and not taken. -/
theorem test_witness_RecordsAreYieldedUntilEndOfFile :
    (∃ s : State, s.env.script = [] ∧ s.busy = true ∧ s.prog = [.micro .eofTest, .micro .yield] ∧ s.eofSeen = true
      ∧ s.env.doneReady = true)
    ∧ (∃ s : State, s.env.script = [] ∧ s.busy = true ∧ s.prog = [.micro .eofTest, .micro .yield] ∧ s.eofSeen = false
      ∧ s.env.recReady = true)
    ∧ (∃ s : State, s.env.script = [] ∧ s.busy = true ∧ s.prog = [.micro .eofTest, .micro .yield] ∧ s.eofSeen = false
      ∧ s.env.recReady = false) :=
  ⟨⟨{ busyIn .idle [.micro .eofTest, .micro .yield] [] with eofSeen := true }, rfl, rfl, rfl, rfl, rfl⟩,
    ⟨busyIn .idle [.micro .eofTest, .micro .yield] [], rfl, rfl, rfl, rfl, rfl⟩,
    ⟨{ busyIn .idle [.micro .eofTest, .micro .yield] [] with env := { Env.quiet with recReady := false } },
      rfl, rfl, rfl, rfl, rfl⟩⟩

/-- Each of the two types, offered to a host that takes it. -/
theorem test_witness_SegmentRecordsArePassedThrough :
    (∃ s : State, (s.recType = 0x02#8 ∨ s.recType = 0x03#8) ∧ s.env.recReady = true)
    ∧ ∃ s : State, s.recType = 0x03#8 ∧ s.env.recReady = true :=
  ⟨⟨{ hexrunIn .idle with recType := 0x02#8 }, .inl rfl, rfl⟩, ⟨{ hexrunIn .idle with recType := 0x03#8 }, rfl, rfl⟩⟩

/-- An instruction that is no HEX line, and answers a next state. -/
theorem test_witness_OnlyDecodeWritesTheRecordRegisters_instr :
    ∃ (i : Instr) (s t : State), (∀ line, i ≠ .hexrec line) ∧ exec i s = .next t :=
  ⟨.hexEndOfFile 0x0000#16 [], idle, _, by simp, rfl⟩

/-- HEXRUN in Running is admitted; code 0xA and code 0x8 there are refused (K21). -/
theorem test_witness_AdmissionTableDecides :
    (∃ (s : State) (q : Request), s.env.script = [] ∧ s.env.doneReady = true ∧ s.busy = false ∧ s.sess.resting = true
      ∧ s.env.reqs = q :: [] ∧ q.op = 0x9#4 ∧ tableAdmits q.op s.sess = true)
    ∧ (∃ (s : State) (q : Request), s.env.script = [] ∧ s.env.doneReady = true ∧ s.busy = false ∧ s.sess.resting = true
      ∧ s.env.reqs = q :: [] ∧ q.op = 0xA#4 ∧ tableAdmits q.op s.sess = false)
    ∧ (∃ (s : State) (q : Request), s.env.script = [] ∧ s.env.doneReady = true ∧ s.busy = false ∧ s.sess.resting = true
      ∧ s.env.reqs = q :: [] ∧ q.op = 0x8#4 ∧ tableAdmits q.op s.sess = false) :=
  ⟨⟨{ idle with sess := .running, env := { Env.quiet with reqs := [{ op := 0x9#4, arg0 := 0#32, arg1 := 0#32 }] } }, _,
      rfl, rfl, rfl, rfl, rfl, rfl, rfl⟩,
    ⟨{ idle with sess := .running, env := { Env.quiet with reqs := [{ op := 0xA#4, arg0 := 0#32, arg1 := 0#32 }] } }, _,
      rfl, rfl, rfl, rfl, rfl, rfl, rfl⟩,
    ⟨{ idle with sess := .running, env := { Env.quiet with reqs := [{ op := 0x8#4, arg0 := 0#32, arg1 := 0#32 }] } }, _,
      rfl, rfl, rfl, rfl, rfl, rfl, rfl⟩⟩

/-- The least and the greatest reserved code. -/
theorem test_witness_ReservedCodeIsRefused :
    10 ≤ (0xA#4).toNat ∧ 10 ≤ (0xF#4).toNat ∧ State.reset.env.doneReady = true :=
  ⟨by decide, by decide, rfl⟩

/-- Closed, with TP's acknowledgement there. -/
theorem test_witness_OpenCompletes :
    ∃ s : State, s.attended ∧ s.sess = .closed ∧ s.env.tpAcks = [] :: [] :=
  ⟨{ State.reset with env := { Env.quiet with tpAcks := [[]] } }, ⟨rfl, rfl, rfl, rfl, rfl⟩, rfl, rfl⟩

/-- Each of the three states that admit `close`. -/
theorem test_witness_CloseCompletes :
    ∃ f : Sess → State, ∀ x, (x = .disconnected ∨ x = .idle ∨ x = .running) →
      (f x).attended ∧ ((f x).sess = .disconnected ∨ (f x).sess = .idle ∨ (f x).sess = .running)
        ∧ (f x).env.tpAcks = [0x0D#8] :: [] :=
  ⟨fun x => { State.reset with sess := x, env := { Env.quiet with tpAcks := [[0x0D#8]] } },
    fun _ h => ⟨⟨rfl, rfl, rfl, rfl, rfl⟩, h, rfl⟩⟩

/-- K3. -/
theorem test_witness_ConnectCompletes :
    ∃ s : State, s.attended ∧ s.sess = .disconnected ∧ s.env.abort = false
      ∧ s.env.rx = [0x0D#8, 0x0A#8, 0x3E#8] ++ [] :=
  ⟨{ idleRx [0x0D#8, 0x0A#8, 0x3E#8] with sess := .disconnected }, ⟨rfl, rfl, rfl, rfl, rfl⟩, rfl, rfl, rfl⟩

/-- No silent poll, and P2's three. -/
theorem test_witness_ConnectRetriesSilenceUntilAnswered :
    ∃ f : Nat → State, ∀ n, n = 0 ∨ n = 3 →
      (f n).sess = .disconnected ∧ (f n).env.abort = false ∧ (f n).env.txReady = true ∧ (f n).env.doneReady = true
      ∧ (f n).env.rx = []
      ∧ (f n).env.script
        = List.replicate (5 * n + 3) .muf
          ++ [.env (.rxByte 0x0D#8), .env (.rxByte 0x0A#8), .env (.rxByte 0x3E#8)] :=
  ⟨fun n =>
      { idle with
        sess := .disconnected,
        env :=
          { Env.quiet with
            script :=
              List.replicate (5 * n + 3) .muf
                ++ [.env (.rxByte 0x0D#8), .env (.rxByte 0x0A#8), .env (.rxByte 0x3E#8)] } },
    fun _ _ => ⟨rfl, rfl, rfl, rfl, rfl, rfl⟩⟩

/-- K6; K5's abort at a later top, two SYNC bytes sent; and an abort raised inside the second iteration. -/
theorem test_witness_AbortCancelsConnect :
    (∃ s : State, s.attended ∧ s.sess = .disconnected ∧ s.env.abort = true)
    ∧ (∃ s : State, s.attended ∧ s.busy = true ∧ s.sess = .connecting ∧ s.prog = [.micro .connectTop]
      ∧ s.env.abort = true ∧ s.out.sent = [0x00#8, 0x00#8])
    ∧ ∃ f : Nat → State, ∀ m, m = 0 ∨ m = 6 →
      (f m).sess = .disconnected ∧ (f m).env.abort = false ∧ (f m).env.txReady = true ∧ (f m).env.doneReady = true
      ∧ (f m).env.rx = [] ∧ (f m).env.script = List.replicate (m + 1) .muf ++ [.env (.setAbort true)] :=
  ⟨⟨{ idle with sess := .disconnected, env := { Env.quiet with abort := true } }, ⟨rfl, rfl, rfl, rfl, rfl⟩, rfl, rfl⟩,
    ⟨{ busyIn .connecting [.micro .connectTop] [] with
        env := { Env.quiet with abort := true }, out := { Outputs.empty with tp := txAll [0x00#8, 0x00#8] } },
      ⟨rfl, rfl, rfl, rfl, rfl⟩, rfl, rfl, rfl, rfl, by decide⟩,
    ⟨fun m =>
        { idle with
          sess := .disconnected,
          env := { Env.quiet with script := List.replicate (m + 1) .muf ++ [.env (.setAbort true)] } },
      fun _ _ => ⟨rfl, rfl, rfl, rfl, rfl, rfl⟩⟩⟩

/-- K8. -/
theorem test_witness_CmdSyncCompletes :
    ∃ s : State, s.attended ∧ s.sess = .idle ∧ s.env.rx = [0x0D#8, 0x0A#8, 0x3E#8] ++ [] :=
  ⟨idleRx [0x0D#8, 0x0A#8, 0x3E#8], ⟨rfl, rfl, rfl, rfl, rfl⟩, rfl, rfl⟩

/-- S6, and K9's silence. -/
theorem test_witness_CmdCrCompletes :
    (∃ s : State, s.attended ∧ s.sess = .idle ∧ s.env.rx = [0x0D#8, 0x0A#8, 0x3E#8] ++ [])
    ∧ ∃ s : State, s.attended ∧ s.sess = .idle ∧ s.env.rx = [] :=
  ⟨⟨idleRx [0x0D#8, 0x0A#8, 0x3E#8], ⟨rfl, rfl, rfl, rfl, rfl⟩, rfl, rfl⟩,
    ⟨idle, ⟨rfl, rfl, rfl, rfl, rfl⟩, rfl, rfl⟩⟩

/-- K10: the second answers are what TP's queue holds after the reopen. -/
theorem test_witness_CmdBaudCompletes :
    ∃ s : State, s.attended ∧ s.sess = .idle ∧ s.env.rx = 0x42#8 :: 0x42#8 :: []
      ∧ (0x42#8 : Byte) ≠ 0x45#8
      ∧ s.env.tpAcks = [] :: (0x42#8 :: 0x42#8 :: 0x0D#8 :: 0x0A#8 :: 0x3E#8 :: []) :: [] :=
  ⟨{ idle with
      env :=
        { Env.quiet with
          rx := [0x42#8, 0x42#8], tpAcks := [[], [0x42#8, 0x42#8, 0x0D#8, 0x0A#8, 0x3E#8]] } },
    ⟨rfl, rfl, rfl, rfl, rfl⟩, rfl, rfl, by decide, rfl⟩

/-- K15 (payload 45 0D 00) and a load of no byte. -/
theorem test_witness_CmdLoadCompletes :
    (∃ (s : State) (payload : List Byte), s.attended ∧ s.sess = .idle ∧ s.hsActive = false
      ∧ payload.length = (3#32).toNat ∧ s.env.pl = payload ++ []
      ∧ s.env.rx = 0x4C#8 :: 0x4C#8 :: 0x4C#8 :: 0x4B#8 :: 0x0D#8 :: 0x0A#8 :: 0x3E#8 :: [])
    ∧ (∃ (s : State) (payload : List Byte), s.attended ∧ s.sess = .idle ∧ s.hsActive = false
      ∧ payload.length = (0#32).toNat ∧ s.env.pl = payload ++ []
      ∧ s.env.rx = 0x4C#8 :: 0x4C#8 :: 0x4C#8 :: 0x4B#8 :: 0x0D#8 :: 0x0A#8 :: 0x3E#8 :: [])
    ∧ (0x4C#8 : Byte) ≠ 0x45#8 :=
  ⟨⟨{ idle with
        env :=
          { Env.quiet with
            pl := [0x45#8, 0x0D#8, 0x00#8],
            rx := [0x4C#8, 0x4C#8, 0x4C#8, 0x4B#8, 0x0D#8, 0x0A#8, 0x3E#8] } },
      [0x45#8, 0x0D#8, 0x00#8], ⟨rfl, rfl, rfl, rfl, rfl⟩, rfl, rfl, rfl, rfl, rfl⟩,
    ⟨idleRx [0x4C#8, 0x4C#8, 0x4C#8, 0x4B#8, 0x0D#8, 0x0A#8, 0x3E#8], [], ⟨rfl, rfl, rfl, rfl, rfl⟩, rfl, rfl, rfl,
      rfl, rfl⟩,
    by decide⟩

/-- K14. -/
theorem test_witness_CmdLoadCompletes_wrong_acknowledgement :
    (∃ (s : State) (payload : List Byte), s.attended ∧ s.sess = .idle ∧ s.hsActive = false
      ∧ payload.length = (1#32).toNat ∧ s.env.pl = payload ++ []
      ∧ s.env.rx = 0x4C#8 :: 0x4C#8 :: 0x4C#8 :: 0x4C#8 :: [])
    ∧ (0x4C#8 : Byte) ≠ 0x45#8 ∧ (0x4C#8 : Byte) ≠ 0x4B#8 :=
  ⟨⟨{ idle with env := { Env.quiet with pl := [0xAA#8], rx := [0x4C#8, 0x4C#8, 0x4C#8, 0x4C#8] } }, [0xAA#8],
      ⟨rfl, rfl, rfl, rfl, rfl⟩, rfl, rfl, rfl, rfl, rfl⟩, by decide, by decide⟩

/-- K16, K17 and K18. -/
theorem test_witness_CmdVfyCompletes :
    (∃ (s : State) (readback : List Byte), s.attended ∧ s.sess = .idle ∧ readback.length = (3#32).toNat
      ∧ s.env.rx = 0x59#8 :: 0x59#8 :: 0x59#8 :: (readback ++ 0x4B#8 :: 0x0D#8 :: 0x0A#8 :: 0x3E#8 :: []))
    ∧ (∃ (s : State) (readback : List Byte), s.attended ∧ s.sess = .idle ∧ readback.length = (0#32).toNat
      ∧ s.env.rx = 0x59#8 :: 0x59#8 :: 0x59#8 :: (readback ++ 0x4B#8 :: 0x0D#8 :: 0x0A#8 :: 0x3E#8 :: []))
    ∧ (∃ (s : State) (readback : List Byte), s.attended ∧ s.sess = .idle ∧ readback.length = (1#32).toNat
      ∧ s.env.rx = 0x59#8 :: 0x59#8 :: 0x59#8 :: (readback ++ 0x59#8 :: []))
    ∧ (0x59#8 : Byte) ≠ 0x45#8 ∧ (0x59#8 : Byte) ≠ 0x4B#8 :=
  ⟨⟨idleRx [0x59#8, 0x59#8, 0x59#8, 0x45#8, 0x0D#8, 0x4B#8, 0x4B#8, 0x0D#8, 0x0A#8, 0x3E#8], [0x45#8, 0x0D#8, 0x4B#8],
      ⟨rfl, rfl, rfl, rfl, rfl⟩, rfl, rfl, rfl⟩,
    ⟨idleRx [0x59#8, 0x59#8, 0x59#8, 0x4B#8, 0x0D#8, 0x0A#8, 0x3E#8], [], ⟨rfl, rfl, rfl, rfl, rfl⟩, rfl, rfl, rfl⟩,
    ⟨idleRx [0x59#8, 0x59#8, 0x59#8, 0xAA#8, 0x59#8], [0xAA#8], ⟨rfl, rfl, rfl, rfl, rfl⟩, rfl, rfl, rfl⟩,
    by decide, by decide⟩

/-- P5: the stale byte 0D serves as the response to RUN. -/
theorem test_witness_CmdRunCompletes :
    ∃ (s : State) (x : Byte) (more : List Byte), s.attended ∧ s.sess = .idle ∧ s.env.rx = x :: more ∧ x ≠ 0x45#8 :=
  ⟨idleRx [0x0D#8, 0x0A#8, 0x3E#8], _, _, ⟨rfl, rfl, rfl, rfl, rfl⟩, rfl, rfl, by decide⟩

/-- H11: V1 with characters after it; the longest payload. -/
theorem test_witness_HexrunStopsAtEndOfFile :
    (∃ (s : State) (more : List HexItem), s.attended ∧ ([] : List Byte).length ≤ 255
      ∧ s.env.hx = (encodeLine 0x01#8 0x0000#16 [] ++ [0x0A#8]).map .char ++ more)
    ∧ (∃ (s : State) (payload : List Byte), s.attended ∧ payload = List.replicate 255 0xFF#8 ∧ payload.length ≤ 255
      ∧ s.env.hx = (encodeLine 0x01#8 0x0000#16 payload ++ [0x0A#8]).map .char ++ []) :=
  ⟨⟨{ idle with
        env := { Env.quiet with hx := (encodeLine 0x01#8 0x0000#16 [] ++ [0x0A#8]).map .char ++ [.char 0x3A#8] } },
      _, ⟨rfl, rfl, rfl, rfl, rfl⟩, by decide, rfl⟩,
    ⟨{ idle with
        env :=
          { Env.quiet with
            hx := (encodeLine 0x01#8 0x0000#16 (List.replicate 255 0xFF#8) ++ [0x0A#8]).map .char ++ [] } },
      _, ⟨rfl, rfl, rfl, rfl, rfl⟩, rfl, by decide +kernel, rfl⟩⟩

/-- A Data record of 255 bytes at the last offset, in an Idle session with the device's answers waiting. -/
theorem test_witness_HexrunLoadsADataRecord :
    ∃ (s : State) (payload : List Byte), s.attended ∧ s.sess = .idle ∧ Memory.wf s.recPay = true
      ∧ payload = List.replicate 255 0xFF#8 ∧ payload.length ≤ 255
      ∧ s.env.hx
        = (encodeLine 0x00#8 0xFFFF#16 payload ++ [0x0A#8]).map .char
          ++ (encodeLine 0x01#8 0x0000#16 [] ++ [0x0A#8]).map .char
      ∧ (0x4C#8 : Byte) ≠ 0x45#8
      ∧ s.env.rx = 0x4C#8 :: 0x4C#8 :: 0x4C#8 :: 0x4B#8 :: 0x0D#8 :: 0x0A#8 :: 0x3E#8 :: [] :=
  ⟨{ idle with
      env :=
        { Env.quiet with
          hx :=
            (encodeLine 0x00#8 0xFFFF#16 (List.replicate 255 0xFF#8) ++ [0x0A#8]).map .char
              ++ (encodeLine 0x01#8 0x0000#16 [] ++ [0x0A#8]).map .char,
          rx := [0x4C#8, 0x4C#8, 0x4C#8, 0x4B#8, 0x0D#8, 0x0A#8, 0x3E#8] } },
    List.replicate 255 0xFF#8, ⟨rfl, rfl, rfl, rfl, rfl⟩, rfl, by decide, rfl, by decide +kernel, rfl, by decide, rfl⟩

/-- H10: no characters; H9: the end of input after records, in a HEXRUN with its base set; a line with no end, and a
record of type 02 with none. -/
theorem test_witness_HexInputEndIsTruncatedFile :
    (∃ s : State, s.attended ∧ s.env.hx = .eos :: [])
    ∧ (∃ s : State, s.attended ∧ s.busy = true ∧ s.prog = hexLoop ∧ s.abase = 0x00010000#32 ∧ s.env.hx = .eos :: [])
    ∧ (∃ s : State, s.attended ∧ s.busy = true ∧ s.prog = hexLoop ∧ ([0x3A#8] : List Byte) ≠ []
      ∧ (0x0A#8 : Byte) ∉ [0x3A#8] ∧ s.env.hx = [0x3A#8].map .char ++ .eos :: [])
    ∧ ∃ (s : State) (payload : List Byte), s.attended ∧ s.busy = true ∧ s.prog = hexLoop ∧ s.eofSeen = false
      ∧ Memory.wf s.recPay = true ∧ payload = [0x10#8, 0x00#8] ∧ payload.length ≤ 255
      ∧ (0x02#8 : Byte) ≠ 0x00#8 ∧ (0x02#8 : Byte) ≠ 0x01#8 ∧ (0x02#8 : Byte) ≠ 0x04#8 ∧ (0x02#8 : Byte) ≠ 0x05#8
      ∧ s.env.hx = (encodeLine 0x02#8 0x0000#16 payload).map .char ++ .eos :: [] :=
  ⟨⟨{ idle with env := { Env.quiet with hx := [.eos] } }, ⟨rfl, rfl, rfl, rfl, rfl⟩, rfl⟩,
    ⟨{ hexrunIn .idle with prog := hexLoop, abase := 0x00010000#32, env := { Env.quiet with hx := [.eos] } },
      ⟨rfl, rfl, rfl, rfl, rfl⟩, rfl, rfl, rfl, rfl⟩,
    ⟨{ hexrunIn .idle with prog := hexLoop, env := { Env.quiet with hx := [.char 0x3A#8, .eos] } },
      ⟨rfl, rfl, rfl, rfl, rfl⟩, rfl, rfl, by decide, by decide, rfl⟩,
    ⟨{ hexrunIn .idle with
        prog := hexLoop,
        env := { Env.quiet with hx := (encodeLine 0x02#8 0x0000#16 [0x10#8, 0x00#8]).map .char ++ [.eos] } },
      _, ⟨rfl, rfl, rfl, rfl, rfl⟩, rfl, rfl, rfl, by decide, rfl, by decide, by decide, by decide, by decide, by decide,
      rfl⟩⟩

/-- A state that holds at each of the steps that wait. -/
theorem test_witness_HoldsWaitForTheirCondition :
    ∃ f : Stmt → State, ∀ st,
      (f st).env.script = [] ∧ (f st).busy = true ∧ (f st).prog = st :: [] ∧ (f st).env.txReady = false
      ∧ (f st).env.rx = [] ∧ (f st).env.rxTmo = false ∧ (f st).env.tpAcks = [] ∧ (f st).env.pl = []
      ∧ (f st).hsActive = false ∧ (f st).cnt ≠ 1#32 ∧ (f st).env.rbReady = false ∧ (f st).env.recReady = false
      ∧ (f st).env.hx = [] ∧ (f st).env.doneReady = false :=
  ⟨fun st =>
      { busyIn .idle [st] [] with
        env := { Env.quiet with txReady := false, rbReady := false, recReady := false, doneReady := false } },
    fun _ => ⟨rfl, rfl, rfl, rfl, rfl, rfl, rfl, rfl, rfl, show (0#32 : Word) ≠ 1#32 by decide, rfl, rfl, rfl, rfl⟩⟩

/-- Reset in the middle of a HEXRUN. -/
theorem test_witness_ResetLeavesTheSpecifiedValues :
    ∃ s : State, s.busy = true ∧ s.hsActive = true ∧ s.env.script = .env .reset :: [] :=
  ⟨{ busyIn .loading [.run .opCr] [] with hsActive := true, env := { Env.quiet with script := [.env .reset] } },
    rfl, rfl, rfl⟩

/-- A state with an operation in flight that meets the invariant, and is not the one after reset. -/
def loading : State :=
  { busyIn .loading [.run .opCr, .micro (.setSess .idle), .micro .completeOk] [0x0D#8] with
    recPay := [(0, 0xAA#8), (254, 0x01#8)], abase := 0xFFFF0000#32, lastCmd := 0x4C#8, lastCmdV := true, opCur := 0x6#4 }

theorem test_witness_inv : loading.Inv where
  recPay := by decide
  abase := by decide
  lineBuf := by decide
  hex := by decide
  rest := by decide
  seq := fun _ => rfl
  own := fun _ => rfl
  lastCmd := by decide
  winCnt := Nat.zero_le _

/-- An operation in flight with the code `op` in session state `x`, with P[0] = 115200. -/
def inFlight (op : Nibble) (x : Sess) (hs : Bool) (prog : List Stmt) : State :=
  { busyIn x prog [] with opCur := op, p0 := 115200#32, hsActive := hs }

/-- The invariant of such a state is a matter of its statements. -/
theorem inFlight_inv {op : Nibble} {x : Sess} {hs : Bool} {prog : List Stmt} (hop : hs = true → op = 0x9#4)
    (hseq : wellSequenced hs (some 0#32) x prog = true) (hown : prog.all (ownStmt op 115200#32) = true) :
    (inFlight op x hs prog).Inv where
  recPay := rfl
  abase := show (0#32).extractLsb' 0 16 = 0#16 by decide
  lineBuf := Nat.zero_le _
  hex := fun h => ⟨rfl, hop h⟩
  rest := fun h => Bool.noConfusion h
  seq := fun _ => hseq
  own := fun _ => hown
  lastCmd := fun h => Bool.noConfusion h
  winCnt := Nat.zero_le _

/-- The state that meets the invariant has a next state in which MUF sends a byte. -/
theorem test_witness_step_of_inv :
    ∃ t, step loading = .next t ∧ t.out.sent = [0x0D#8] ∧ t.env.tpAcks = loading.env.tpAcks :=
  ⟨_, rfl, by decide, rfl⟩

theorem test_witness_EveryStepKeepsInv : ∃ s t : State, s.Inv ∧ step s = .next t :=
  ⟨loading, _, test_witness_inv, rfl⟩

theorem test_witness_InvStatesNeverStop : ∃ s : State, s.Inv := ⟨loading, test_witness_inv⟩

theorem test_witness_SessChangesOnlyAsTheTableSays :
    ∃ s t : State, s.Inv ∧ (∀ rest, s.env.script ≠ .env .reset :: rest) ∧ step s = .next t :=
  ⟨loading, _, test_witness_inv, by simp [loading, busyIn, Env.quiet], rfl⟩

theorem test_witness_BytesLeaveOnlyInAnExchangingSession : ∃ s t : State, s.Inv ∧ step s = .next t :=
  ⟨loading, _, test_witness_inv, rfl⟩

theorem test_witness_ReceivedBytesAreTakenInOrder :
    ∃ s t : State, s.Inv ∧ s.env.script = [] ∧ step s = .next t ∧ t.env.tpAcks = s.env.tpAcks :=
  ⟨loading, _, test_witness_inv, rfl, rfl, rfl⟩

theorem test_witness_RequestsWaitWhileBusy :
    ∃ s t : State, s.busy = true ∧ s.env.script = [] ∧ step s = .next t ∧ s.env.reqs ≠ [] :=
  ⟨{ busyIn .idle [.micro .completeOk] [] with
      env := { Env.quiet with reqs := [{ op := 0x4#4, arg0 := 0#32, arg1 := 0#32 }] } }, _, rfl, rfl, rfl, by decide⟩

theorem test_witness_OneReportPerOperation :
    (∃ s t : State, s.env.script = [] ∧ s.busy = true ∧ step s = .next t ∧ t.busy = false)
    ∧ ∃ s t : State, s.env.script = [] ∧ s.busy = true ∧ step s = .next t ∧ t.busy = true :=
  ⟨⟨busyIn .idle [.micro .completeOk] [], _, rfl, rfl, rfl, rfl⟩, ⟨loading, _, rfl, rfl, rfl, rfl⟩⟩

theorem test_witness_AnyFaultIsSticky :
    ∃ s t : State, s.anyFault = true ∧ (∀ rest, s.env.script ≠ .env .reset :: rest) ∧ step s = .next t :=
  ⟨{ loading with anyFault := true }, _, rfl, by simp [loading, busyIn, Env.quiet], rfl⟩

theorem test_witness_StatusRegistersStayLegal : ∃ s t : State, s.StatusLegal ∧ step s = .next t :=
  ⟨loading, _, ⟨⟨.ok, rfl, rfl, rfl, rfl, rfl⟩, .inl rfl⟩, rfl⟩

/-- The decode of a held line that is `:00000001FF`. -/
theorem test_witness_OnlyDecodeWritesTheRecordRegisters :
    ∃ s t : State, s.Inv ∧ (∀ rest, s.env.script ≠ .env .reset :: rest) ∧ step s = .next t ∧ t.recType ≠ s.recType := by
  refine ⟨{ inFlight 0x9#4 .idle true [.decodeLine, .act, .micro .eofTest, .micro .yield] with
      lineBuf := encodeLine 0x01#8 0x0000#16 [] }, _, ?_, by simp [inFlight, busyIn, Env.quiet], rfl, by decide⟩
  obtain ⟨h1, h2, _, h4, h5, h6, h7, h8, h9⟩ :=
    inFlight_inv (op := 0x9#4) (x := .idle) (hs := true) (fun _ => rfl)
      (prog := [.decodeLine, .act, .micro .eofTest, .micro .yield]) (by decide) (by decide)
  exact ⟨h1, h2, by decide, h4, h5, h6, h7, h8, h9⟩

/-- The `BAUD_CUR <- rate` of open and of cmd_baud. -/
theorem test_witness_OnlyOpenAndBaudSetTheRate :
    (∃ s t : State, s.Inv ∧ (∀ rest, s.env.script ≠ .env .reset :: rest) ∧ step s = .next t ∧ t.baudCur ≠ s.baudCur
      ∧ s.opCur = 0x0#4)
    ∧ ∃ s t : State, s.Inv ∧ (∀ rest, s.env.script ≠ .env .reset :: rest) ∧ step s = .next t ∧ t.baudCur ≠ s.baudCur
      ∧ s.opCur = 0x5#4 :=
  ⟨⟨inFlight 0x0#4 .closed false [.micro (.setBaud 115200#32), .micro .clearLast, .micro (.setSess .disconnected),
        .micro .completeOk],
      _, inFlight_inv (by decide) (by decide) (by decide), by simp [inFlight, busyIn, Env.quiet], rfl, by decide, rfl⟩,
    ⟨inFlight 0x5#4 .settingBaud false [.micro (.setBaud 115200#32), .run (.opBaud 115200#32), .run .opCr,
        .micro (.setSess .idle), .micro .completeOk],
      _, inFlight_inv (by decide) rfl (by decide), by simp [inFlight, busyIn, Env.quiet], rfl, by decide, rfl⟩⟩

/-- The start of a HEXRUN from the host port, and the action of V2's record with base 0x0001. -/
theorem test_witness_OnlyHexrunAndLinearRecordsSetTheBase :
    (∃ s t : State, s.Inv ∧ (∀ rest, s.env.script ≠ .env .reset :: rest) ∧ step s = .next t ∧ t.abase ≠ s.abase
      ∧ s.busy = false)
    ∧ ∃ s t : State, s.Inv ∧ (∀ rest, s.env.script ≠ .env .reset :: rest) ∧ step s = .next t ∧ t.abase = 0x00010000#32 := by
  refine ⟨⟨{ State.reset with
      abase := 0x00010000#32, env := { Env.quiet with reqs := [{ op := 0x9#4, arg0 := 0#32, arg1 := 0#32 }] } },
    _, ⟨rfl, by decide, by decide, by decide, fun _ => ⟨rfl, rfl⟩, by decide, by decide, by decide, Nat.zero_le _⟩,
    by simp [Env.quiet], rfl, by decide, rfl⟩,
    { inFlight 0x9#4 .idle true [.act, .micro .eofTest, .micro .yield] with
      recLen := 0x02#8, recType := 0x04#8, recPay := [(1, 0x01#8)] },
    _, ?_, by simp [inFlight, busyIn, Env.quiet], rfl, by decide⟩
  obtain ⟨_, h2, h3, h4, h5, h6, h7, h8, h9⟩ :=
    inFlight_inv (op := 0x9#4) (x := .idle) (hs := true) (fun _ => rfl)
      (prog := [.act, .micro .eofTest, .micro .yield]) (by decide) (by decide)
  exact ⟨by decide, h2, h3, h4, h5, h6, h7, h8, h9⟩

/-- An opcode byte sent, and the `LAST_CMD_V <- 0` of open. -/
theorem test_witness_OnlyOpcodeBytesAreRecorded :
    (∃ s t : State, s.Inv ∧ (∀ rest, s.env.script ≠ .env .reset :: rest) ∧ step s = .next t ∧ t.lastCmd ≠ s.lastCmd)
    ∧ ∃ s t : State, s.Inv ∧ (∀ rest, s.env.script ≠ .env .reset :: rest) ∧ step s = .next t
      ∧ s.prog.head? = some (.micro .clearLast) :=
  ⟨⟨loading, _, test_witness_inv, by simp [loading, busyIn, Env.quiet], rfl, by decide⟩,
    ⟨inFlight 0x0#4 .closed false [.micro .clearLast, .micro (.setSess .disconnected), .micro .completeOk],
      _, inFlight_inv (by decide) (by decide) (by decide), by simp [inFlight, busyIn, Env.quiet], rfl, rfl⟩⟩

/-- A character taken, and a step that takes none. -/
theorem test_witness_HexCharactersAreReadOnceInOrder :
    (∃ s t : State, s.env.script = [] ∧ step s = .next t ∧ t.env.hx ≠ s.env.hx)
    ∧ ∃ s t : State, s.env.script = [] ∧ step s = .next t ∧ t.env.hx = s.env.hx ∧ s.env.hx ≠ [] :=
  ⟨⟨{ busyIn .idle [.micro .nextChar] [] with env := { Env.quiet with hx := [.char 0x3A#8] } }, _, rfl, rfl, by decide⟩,
    ⟨{ busyIn .idle [.micro .lineStart] [] with env := { Env.quiet with hx := [.char 0x3A#8] } }, _, rfl, rfl, rfl,
      by decide⟩⟩

theorem test_witness_EnvironmentTouchesOnlyThePorts :
    ∃ (s t : State) (a : EnvAct) (rest : List Turn), s.env.script = .env a :: rest ∧ a ≠ .reset ∧ step s = .next t :=
  ⟨{ idle with env := { Env.quiet with script := [.env .rxTimeout] } }, _, .rxTimeout, [], rfl, by decide, rfl⟩

end Sys2Proof.Tests
end

/-!
# The cases of one step
-/
section

namespace Sys2Proof.Machine

/-- A turn is taken from the script: only what is left of the script changes. -/
def State.turn (script : List Turn) (s : State) : State := { s with env := { s.env with script := script } }

/-- An empty script has no turn to take. -/
theorem turn_of_script_nil {s : State} (h : s.env.script = []) : s.turn [] = s := by
  unfold State.turn
  rw [← h]

/-- The instruction or the statement `st` stands for, run in the state in which the sequencer has moved past it. -/
def execStmt (st : Stmt) (s : State) : Answer :=
  match st with
  | .run i => exec i s
  | .decodeLine => exec (.hexrec (bufferedLine s.lineBuf s.lineOvf)) s
  | .act => exec (recordInstrOf s) s
  | .micro m => execMicro m s

@[simp] theorem execStmt_run (i : Instr) (s : State) : execStmt (.run i) s = exec i s := rfl
@[simp] theorem execStmt_decodeLine (s : State) :
    execStmt .decodeLine s = exec (.hexrec (bufferedLine s.lineBuf s.lineOvf)) s := rfl
@[simp] theorem execStmt_act (s : State) : execStmt .act s = exec (recordInstrOf s) s := rfl
@[simp] theorem execStmt_micro (m : Micro) (s : State) : execStmt (.micro m) s = execMicro m s := rfl

/-- A step that fetches a statement of the sequencer is that statement's meaning. -/
theorem step_of_fetchStmt {s u : State} {st : Stmt} (h : fetch s = fetchStmt st u) : step s = execStmt st u := by
  cases st with
  | run i => exact step_instr h
  | decodeLine => exact step_instr h
  | act => exact step_instr h
  | micro m => exact step_micro h

/-- Everything one step can be, with what it answers (R20, R27, R170). -/
inductive StepCase (s : State) (r : Answer) : Prop where
  | env (a : EnvAct) (script : List Turn) (hs : s.env.script = .env a :: script)
      (hr : r = .next (envStep a (s.turn script)))
  | idle (script : List Turn) (hb : s.busy = false) (hr : r = .next (s.turn script))
  | request (script : List Turn) (q : Request) (rest : List Request) (hb : s.busy = false)
      (hq : s.env.reqs = q :: rest)
      (hr : r = exec (decodeHost q.op q.arg0 q.arg1) (takeRequest q rest (s.turn script)))
  | stmt (script : List Turn) (st : Stmt) (rest : List Stmt) (hb : s.busy = true) (hp : s.prog = st :: rest)
      (hr : r = execStmt st (jump rest (s.turn script)))
  | noStatement (hb : s.busy = true) (hp : s.prog = []) (hr : r = .fault .noStatement)

/-- MUF's turn, taken from the script or after its end. -/
theorem stepCase_of_fetchMuf {s : State} {script : List Turn} (h : fetch s = fetchMuf (s.turn script)) :
    StepCase s (step s) := by
  obtain ⟨hb, hp, hf⟩ | ⟨st, rest, hb, hp, hf⟩ | ⟨hb, -, hf⟩ | ⟨q, rest, hb, hq, hf⟩ := fetchMuf_cases (s.turn script)
  · exact .noStatement hb hp (step_empty (h.trans hf))
  · exact .stmt script st rest hb hp (step_of_fetchStmt (h.trans hf))
  · exact .idle script hb (step_idle (h.trans hf))
  · exact .request script q rest hb hq (step_instr (h.trans hf))

theorem stepCase (s : State) : StepCase s (step s) := by
  obtain ⟨hs, hf⟩ | ⟨script, -, hf⟩ | ⟨a, script, hs, hf⟩ := fetch_cases s
  · exact stepCase_of_fetchMuf (script := []) (by rw [hf, turn_of_script_nil hs])
  · exact stepCase_of_fetchMuf hf
  · exact .env a script hs (step_env hf)

/-- With the script at its end, a step of an operation in flight is the meaning of its next statement. -/
theorem step_of_prog {s : State} {st : Stmt} {rest : List Stmt} (hs : s.env.script = []) (hb : s.busy = true)
    (hp : s.prog = st :: rest) : step s = execStmt st (jump rest s) :=
  step_of_fetchStmt (fetch_busy hs hb hp)

/-- With the script at its end, an idle MUF takes the next request. -/
theorem step_of_request {s : State} {q : Request} {rest : List Request} (hs : s.env.script = [])
    (hb : s.busy = false) (hq : s.env.reqs = q :: rest) :
    step s = exec (decodeHost q.op q.arg0 q.arg1) (takeRequest q rest s) :=
  step_instr (by simp [fetch, fetchMuf, hs, hb, hq])

/-- Settles O7: each of the four sources of an instruction is one case of the fetch. -/
theorem stepRunsTheFetchedInstruction : Obligations.StepRunsTheFetchedInstruction := by
  intro s hs
  refine ⟨fun q rest hb hq => ?_, fun i rest hb hp => ?_, fun rest hb hp => ?_, fun rest hb hp => ?_⟩
  · exact step_of_request hs hb hq
  · exact step_of_prog hs hb hp
  · exact step_of_prog hs hb hp
  · exact step_of_prog hs hb hp

/-- Settles O60: the script's act is what the step is, and no act but reset reaches past the ports. -/
theorem environmentTouchesOnlyThePorts : Obligations.EnvironmentTouchesOnlyThePorts := by
  intro s t a rest hs ha hstep
  have hf : fetch s = .env a (s.turn rest) := by simp [fetch, hs, State.turn]
  rw [step_env hf] at hstep
  cases hstep
  exact envStep_ports ha (s.turn rest)

end Sys2Proof.Machine
end

/-! # Reset and the codes -/
section

namespace Sys2Proof.Machine

/-- R38: what the reset input leaves has the specified values, whatever the state was. -/
theorem resetMuf_hasResetValues (s : State) : (resetMuf s).HasResetValues where
  abase := rfl
  baudCur := rfl
  sess := rfl
  connected := rfl
  busy := rfl
  hsr := ⟨rfl, rfl⟩
  lastCmdV := rfl
  status := ⟨rfl, rfl, rfl, rfl, rfl, rfl⟩
  anyFault := rfl
  work := ⟨rfl, rfl⟩

/-- The machine starts as the reset input leaves it. -/
theorem resetMuf_reset : resetMuf State.reset = State.reset := rfl

/-- Settles O43: the start state and the reset input leave the same register values. -/
theorem resetLeavesTheSpecifiedValues : Obligations.ResetLeavesTheSpecifiedValues := by
  refine ⟨resetMuf_reset ▸ resetMuf_hasResetValues State.reset, fun s rest hs => ?_⟩
  have hf : fetch s = .env .reset (s.turn rest) := by simp [fetch, hs, State.turn]
  exact ⟨resetMuf (s.turn rest), step_env hf, resetMuf_hasResetValues _, rfl, rfl⟩

/-- R28: CONNECTED by the state of the session. -/
theorem connected_iff (s : State) :
    s.connected = true ↔ s.sess = .idle ∨ s.sess = .loading ∨ s.sess = .verifying ∨ s.sess = .settingBaud := by
  unfold State.connected
  cases s.sess <;> simp

/-- Settles O44: the code tables are finite, and CONNECTED is `connected_iff`. -/
theorem codesAreThoseOfTheTables : Obligations.CodesAreThoseOfTheTables :=
  ⟨rfl, rfl, rfl, rfl, rfl, rfl, fun _ _ _ => ⟨rfl, rfl, rfl⟩, connected_iff⟩

end Sys2Proof.Machine
end

/-!
# What the instructions and the statements write

The registers few statements write are collected in `Regs`; `Quiet` says that a step writes none of them and writes
the status registers only as a completion does.  `InstrEffect` and `MicroEffect` say, once for every instruction and
every statement, which of them it writes.
-/
section

namespace Sys2Proof.Machine

/-- The registers that only a few instructions and statements write (R21, R22, R23, R29, R30, R34). -/
structure Regs where
  recLen : Byte
  recOff : Half
  recType : Byte
  recPay : Memory
  recCks : Byte
  lineBuf : List Byte
  abase : Word
  baudCur : Word
  lastCmd : Byte
  lastCmdV : Bool
  winCnt : Nat

def State.regs (s : State) : Regs :=
  { recLen := s.recLen, recOff := s.recOff, recType := s.recType, recPay := s.recPay, recCks := s.recCks,
    lineBuf := s.lineBuf, abase := s.abase, baudCur := s.baudCur, lastCmd := s.lastCmd, lastCmdV := s.lastCmdV,
    winCnt := s.winCnt }

@[simp] theorem regs_recLen (s : State) : s.regs.recLen = s.recLen := rfl
@[simp] theorem regs_recOff (s : State) : s.regs.recOff = s.recOff := rfl
@[simp] theorem regs_recType (s : State) : s.regs.recType = s.recType := rfl
@[simp] theorem regs_recPay (s : State) : s.regs.recPay = s.recPay := rfl
@[simp] theorem regs_recCks (s : State) : s.regs.recCks = s.recCks := rfl
@[simp] theorem regs_lineBuf (s : State) : s.regs.lineBuf = s.lineBuf := rfl
@[simp] theorem regs_abase (s : State) : s.regs.abase = s.abase := rfl
@[simp] theorem regs_baudCur (s : State) : s.regs.baudCur = s.baudCur := rfl
@[simp] theorem regs_lastCmd (s : State) : s.regs.lastCmd = s.lastCmd := rfl
@[simp] theorem regs_lastCmdV (s : State) : s.regs.lastCmdV = s.lastCmdV := rfl
@[simp] theorem regs_winCnt (s : State) : s.regs.winCnt = s.winCnt := rfl

/-- The values of the status registers other than ST_OP (R31). -/
def State.statusValues (s : State) : Cause × BitVec 3 × Byte × Byte × Byte :=
  (s.stCause, s.stSub, s.stExp, s.stAct, s.stCode)

/-- The values a completion writes (R209). -/
def Status.values (st : Status) : Cause × BitVec 3 × Byte × Byte × Byte :=
  (st.cause, st.sub, st.exp, st.act, st.devCode)

/-- From `s` to `t` ANY_FAULT does not fall, and the status registers stay or take the values of a completion, those of
an error only with ANY_FAULT set (R31, R32, R207, R209). -/
structure Judged (s t : State) : Prop where
  fault : s.anyFault = true → t.anyFault = true
  status : t.statusValues = s.statusValues
    ∨ ∃ st : Status, t.statusValues = st.values ∧ ((∀ e, st ≠ .error e) ∨ t.anyFault = true)

/-- From `s` to `t` no register of `Regs` is written, and the status registers only as `Judged` says. -/
structure Quiet (s t : State) : Prop where
  regs : t.regs = s.regs
  judged : Judged s t

theorem Judged.of_eq {s t : State} (hf : t.anyFault = s.anyFault) (hv : t.statusValues = s.statusValues) :
    Judged s t :=
  ⟨fun h => hf.trans h, .inl hv⟩

theorem Judged.trans {s u t : State} (h : Judged s u) (k : Judged u t) : Judged s t := by
  refine ⟨fun hs => k.fault (h.fault hs), ?_⟩
  obtain hut | hst := k.status
  · obtain hsu | ⟨st, hv, hne⟩ := h.status
    · exact .inl (hut.trans hsu)
    · exact .inr ⟨st, hut.trans hv, hne.imp_right k.fault⟩
  · exact .inr hst

theorem Quiet.of_eq {s t : State} (hr : t.regs = s.regs) (hf : t.anyFault = s.anyFault)
    (hv : t.statusValues = s.statusValues) : Quiet s t :=
  ⟨hr, .of_eq hf hv⟩

theorem Quiet.refl (s : State) : Quiet s s := .of_eq rfl rfl rfl

theorem Quiet.trans {s u t : State} (h : Quiet s u) (k : Quiet u t) : Quiet s t :=
  ⟨k.regs.trans h.regs, h.judged.trans k.judged⟩

/-! ## The shared operations -/

theorem hold_quiet (st : Stmt) (s : State) : Quiet s (hold st s) := .of_eq rfl rfl rfl
theorem push_quiet (l : List Stmt) (s : State) : Quiet s (push l s) := .of_eq rfl rfl rfl
theorem jump_quiet (l : List Stmt) (s : State) : Quiet s (jump l s) := .of_eq rfl rfl rfl
theorem setSess_quiet (x : Sess) (s : State) : Quiet s (setSess x s) := .of_eq rfl rfl rfl
theorem emit_quiet (o : TpOut) (s : State) : Quiet s (emit o s) := .of_eq rfl rfl rfl
theorem releaseHex_quiet (s : State) : Quiet s (releaseHex s) := .of_eq rfl rfl rfl
theorem turn_quiet (script : List Turn) (s : State) : Quiet s (s.turn script) := .of_eq rfl rfl rfl
theorem latchOp_quiet (code : Nibble) (s : State) : Quiet s (latchOp code s) := .of_eq rfl rfl rfl
theorem loadP0_quiet (v : Word) (s : State) : Quiet s (loadP0 v s) := .of_eq rfl rfl rfl
theorem loadP1_quiet (v : Word) (s : State) : Quiet s (loadP1 v s) := .of_eq rfl rfl rfl
theorem cnt_quiet (v : Word) (s : State) : Quiet s { s with cnt := v } := .of_eq rfl rfl rfl
theorem env_quiet (env : Env) (s : State) : Quiet s { s with env := env } := .of_eq rfl rfl rfl
theorem takeRequest_quiet (q : Request) (rest : List Request) (s : State) : Quiet s (takeRequest q rest s) :=
  .of_eq rfl rfl rfl

theorem setSess_jump_quiet (x : Sess) (l : List Stmt) (s : State) : Quiet s (jump l (setSess x s)) :=
  (setSess_quiet x s).trans (jump_quiet l _)

theorem loadParams_quiet (v w : Word) (s : State) : Quiet s (loadP1 w (loadP0 v s)) :=
  (loadP0_quiet v s).trans (loadP1_quiet w _)

theorem offerReport_quiet (s : State) : Quiet s (offerReport s) := by
  obtain ⟨-, h⟩ | ⟨-, h⟩ := offerReport_cases s <;> rw [h] <;> exact .of_eq rfl rfl rfl

/-- A completion is quiet: an error comes only with ANY_FAULT set. -/
theorem complete_quiet {st : Status} {s : State} (h : (∀ e, st ≠ .error e) ∨ s.anyFault = true) :
    Quiet s (complete st s) :=
  have hw : Quiet s (writeStatus st s) := ⟨rfl, id, .inr ⟨st, rfl, h⟩⟩
  hw.trans (offerReport_quiet (writeStatus st s))

theorem setFault_quiet (s : State) : Quiet s (setFault s) := ⟨rfl, fun _ => rfl, .inl rfl⟩

theorem raise_quiet (e : Err) (s : State) : Quiet s (raise e s) := by
  have hdemote : Quiet s (demote e (setFault s)) := (setFault_quiet s).trans (setSess_quiet _ _)
  have hrelease : Quiet s (releaseHex (demote e (setFault s))) := hdemote.trans (releaseHex_quiet _)
  exact hrelease.trans (complete_quiet (.inr rfl))

theorem expect_quiet (e a : Byte) (s : State) : Quiet s (expect e a s) := by
  obtain ⟨-, h⟩ | ⟨-, h⟩ := expect_cases e a s <;> rw [h]
  · exact .refl s
  · exact raise_quiet _ s

theorem send_quiet (b : Byte) (self : Stmt) {k : State → State} (hk : ∀ u, Quiet u (k u)) (s : State) :
    Quiet s (send b self k s) := by
  obtain ⟨-, h⟩ | ⟨-, h⟩ := send_cases b self k s <;> rw [h]
  · exact (emit_quiet _ s).trans (hk _)
  · exact hold_quiet _ s

theorem readOne_quiet (self : Stmt) {k : Byte → State → State} (hk : ∀ b u, Quiet u (k b u)) (s : State) :
    Quiet s (readOne self k s) := by
  obtain ⟨b, rest, -, h⟩ | ⟨-, -, -, h⟩ | ⟨-, -, h⟩ := readOne_cases self k s <;> rw [h]
  · exact (env_quiet _ s).trans (hk b _)
  · exact (env_quiet _ s).trans (raise_quiet _ _)
  · exact hold_quiet _ s

theorem tpRequest_quiet (o : TpOut) (self : Stmt) (s : State) : Quiet s (tpRequest o self s) := by
  obtain ⟨q, acks, -, h⟩ | ⟨-, h⟩ := tpRequest_cases o self s <;> rw [h]
  · exact .of_eq rfl rfl rfl
  · exact hold_quiet _ s

/-- A host operation that is refused is quiet, and so is one whose body is. -/
theorem hostOperation_quiet (op : HostOp) {latch run : State → State} (hl : ∀ u, Quiet u (latch u))
    (hr : ∀ u, Quiet u (run u)) (s : State) : Quiet s (hostOperation op latch run s) := by
  have hlatched : Quiet s (latch (latchOp op.code s)) := (latchOp_quiet _ s).trans (hl _)
  obtain ⟨-, h⟩ | ⟨-, h⟩ := hostOperation_cases op latch run s <;> rw [h]
  · exact hlatched.trans (hr _)
  · exact hlatched.trans (complete_quiet (by simp))

theorem wiredOperation_quiet (op : HostOp) {run : State → State} (hr : ∀ u, Quiet u (run u)) (s : State) :
    Quiet s (wiredOperation op run s) := by
  obtain ⟨-, h⟩ | ⟨-, h⟩ := wiredOperation_cases op run s <;> rw [h]
  · exact hr s
  · exact (releaseHex_quiet s).trans (complete_quiet (by simp))

/-! ## The instructions -/

/-- What an instruction writes of `Regs`: nothing; the opcode byte it sends; the decoded record; ABASE. -/
inductive InstrEffect (i : Instr) (s t : State) : Prop where
  | quiet (h : Quiet s t)
  | opcode (op : Byte) (params : List Byte) (hi : frameHeader i = op :: params)
      (hr : t.regs = { s.regs with lastCmd := op, lastCmdV := true }) (hj : Judged s t)
      (ho : t.out.tp = s.out.tp ++ [.tx op])
  | decode (line : List Byte) (hi : i = .hexrec line)
      (hr : t.regs
        = { s.regs with
            recLen := t.recLen, recOff := t.recOff, recType := t.recType, recPay := t.recPay, recCks := t.recCks })
      (hm : Memory.wf s.recPay = true → Memory.wf t.recPay = true) (hj : Judged s t)
  | clearBase (hi : i = .hexrun) (hr : t.regs = { s.regs with abase := 0#32 }) (hj : Judged s t)
  | linearBase (offset : Half) (b0 b1 : Byte) (hi : i = .hexExtendedLinearAddress offset [b0, b1])
      (hr : t.regs = { s.regs with abase := Machine.linearBase b0 b1 }) (hj : Judged s t)

/-- A wire opcode holds, or sends and records its opcode byte. -/
theorem sendOpcode_effect {op : Byte} {params : List Byte} {i : Instr} (hi : frameHeader i = op :: params)
    (tail : List Stmt) (s : State) : InstrEffect i s (sendOpcode op i tail s) := by
  obtain ⟨-, h⟩ | ⟨-, h⟩ := sendOpcode_cases op i tail s <;> rw [h]
  · exact .opcode op params hi rfl (.of_eq rfl rfl) rfl
  · exact .quiet (hold_quiet _ s)

/-- R114: a record's payload has at most as many bytes as its length says, so it fits REC_PAY. -/
theorem parseRecord_payload_length {bs : List Byte} {r : HexRecord} (h : parseRecord bs = .record r) :
    r.payload.length ≤ Config.recPaySize := by
  unfold parseRecord at h
  split at h
  · next ll _ _ _ rest =>
    cases h
    have := List.length_take_le ll.toNat rest
    have := ll.isLt
    simp only [Config.recPaySize]
    omega
  · cases h

theorem decodeLine_payload_length {line : List Byte} {r : HexRecord} (h : decodeLine line = .record r) :
    r.payload.length ≤ Config.recPaySize := by
  unfold decodeLine at h
  split at h
  · cases h
  · split at h
    · exact parseRecord_payload_length h
    · cases h

/-- R110: the decode of a line writes the record registers, inside REC_PAY, whether it succeeds or fails. -/
theorem execHexrec_effect {line : List Byte} {s t : State} (h : execHexrec line s = .next t) :
    InstrEffect (.hexrec line) s t := by
  unfold execHexrec at h
  split at h
  · next r hd =>
    cases h
    exact .decode line rfl rfl
      (fun hw => Memory.wf_writeBytes hw (by simpa using decodeLine_payload_length hd)) (.of_eq rfl rfl)
  · next sub _ =>
    cases h
    have hq := raise_quiet (.malformedRecord sub) (freeRecord (setChecksumAcc (finalChecksumAcc line) s))
    have hs : Judged s (freeRecord (setChecksumAcc (finalChecksumAcc line) s)) := .of_eq rfl rfl
    refine .decode line rfl ?_ (fun hw => ?_) (hs.trans hq.judged)
    · simp only [← regs_recLen, ← regs_recOff, ← regs_recType, ← regs_recPay, ← regs_recCks, hq.regs]
      rfl
    · rw [← regs_recPay, hq.regs]
      exact Memory.wf_writeBytes hw (by rw [freePayload_length, Nat.zero_add])

/-- R137: a two-byte payload becomes the upper half of ABASE; any other payload raises. -/
theorem execHexExtendedLinearAddress_effect {offset : Half} {payload : List Byte} {s t : State}
    (h : execHexExtendedLinearAddress offset payload s = .next t) :
    InstrEffect (.hexExtendedLinearAddress offset payload) s t := by
  unfold execHexExtendedLinearAddress at h
  split at h
  · next b0 b1 => cases h; exact .linearBase offset b0 b1 rfl rfl (.of_eq rfl rfl)
  · cases h; exact .quiet (raise_quiet _ s)

/-- R138, R142: a wired run, or a raise. -/
theorem execHexStartLinearAddress_quiet {offset : Half} {payload : List Byte} {s t : State}
    (h : execHexStartLinearAddress offset payload s = .next t) : Quiet s t := by
  unfold execHexStartLinearAddress at h
  split at h
  · cases h; exact wiredOperation_quiet _ (fun u => (loadP0_quiet _ u).trans (push_quiet _ _)) s
  · cases h; exact raise_quiet _ s

/-- R161: the comparison of CrTail's first byte. -/
theorem execCrSequence_quiet {s t : State} (h : execCrSequence s = .next t) : Quiet s t := by
  unfold execCrSequence at h
  split at h <;> cases h
  · exact push_quiet _ s
  · exact expect_quiet _ _ s

/-- R130: the start of HEXRUN clears ABASE; a refusal is quiet. -/
theorem execHexrun_effect {s t : State} (h : execHexrun s = .next t) : InstrEffect .hexrun s t := by
  cases h
  obtain ⟨-, h⟩ | ⟨-, h⟩ := hostOperation_cases .hexrun id
    (fun t => jump hexLoop { t with hsActive := true, eofSeen := false, abase := 0#32 }) s <;> rw [h]
  · exact .clearBase rfl rfl (.of_eq rfl rfl)
  · exact .quiet ((latchOp_quiet _ s).trans (complete_quiet (by simp)))

/-- What each instruction writes of `Regs`. -/
theorem exec_effect {i : Instr} {s t : State} (h : exec i s = .next t) : InstrEffect i s t := by
  cases i with
  | opSync => cases h; exact sendOpcode_effect rfl _ s
  | opCr => cases h; exact sendOpcode_effect rfl _ s
  | opBaud => cases h; exact sendOpcode_effect rfl _ s
  | opLoad => cases h; exact sendOpcode_effect rfl _ s
  | opVfy => cases h; exact sendOpcode_effect rfl _ s
  | opRun => cases h; exact sendOpcode_effect rfl _ s
  | ackOk => cases h; exact .quiet (expect_quiet _ _ s)
  | ackEchoBaud => cases h; exact .quiet (expect_quiet _ _ s)
  | crSequence => exact .quiet (execCrSequence_quiet h)
  | errResponse => cases h; exact .quiet (readOne_quiet _ (fun c u => raise_quiet _ u) s)
  | vfyReadback => cases h; exact .quiet (.of_eq rfl rfl rfl)
  | hexrec => exact execHexrec_effect h
  | hexData =>
    cases h
    exact .quiet (wiredOperation_quiet _
      (fun u => (loadParams_quiet _ _ u).trans ((setSess_quiet _ _).trans (push_quiet _ _))) s)
  | hexEndOfFile => cases h; exact .quiet (.of_eq rfl rfl rfl)
  | hexExtendedSegmentAddress => cases h; exact .quiet (.refl s)
  | hexStartSegmentAddress => cases h; exact .quiet (.refl s)
  | hexExtendedLinearAddress => exact execHexExtendedLinearAddress_effect h
  | hexStartLinearAddress offset => exact .quiet (execHexStartLinearAddress_quiet (offset := offset) h)
  | hexUnknown => cases h; exact .quiet (.refl s)
  | hostOpen rate => cases h; exact .quiet (hostOperation_quiet _ (loadP0_quiet rate) (jump_quiet _) s)
  | hostClose => cases h; exact .quiet (hostOperation_quiet _ .refl (jump_quiet _) s)
  | hostConnect => cases h; exact .quiet (hostOperation_quiet _ .refl (setSess_jump_quiet _ _) s)
  | cmdSync => cases h; exact .quiet (hostOperation_quiet _ .refl (jump_quiet _) s)
  | cmdCr => cases h; exact .quiet (hostOperation_quiet _ .refl (jump_quiet _) s)
  | cmdBaud rate => cases h; exact .quiet (hostOperation_quiet _ (loadP0_quiet rate) (setSess_jump_quiet _ _) s)
  | cmdLoad address length =>
    cases h; exact .quiet (hostOperation_quiet _ (loadParams_quiet address length) (setSess_jump_quiet _ _) s)
  | cmdVfy address size =>
    cases h; exact .quiet (hostOperation_quiet _ (loadParams_quiet address size) (setSess_jump_quiet _ _) s)
  | cmdRun address => cases h; exact .quiet (hostOperation_quiet _ (loadP0_quiet address) (jump_quiet _) s)
  | hexrun => exact execHexrun_effect h
  | reservedHostOp code => cases h; exact .quiet ((latchOp_quiet code s).trans (complete_quiet (by simp)))

/-! ## The statements -/

/-- What a statement of the sequencer writes of `Regs`: nothing; BAUD_CUR; LAST_CMD_V; the window timer; the line
buffer. -/
inductive MicroEffect (m : Micro) (s t : State) : Prop where
  | quiet (h : Quiet s t)
  | setBaud (rate : Word) (hm : m = .setBaud rate) (hr : t.regs = { s.regs with baudCur := rate }) (hj : Judged s t)
  | clearLast (hm : m = .clearLast) (hr : t.regs = { s.regs with lastCmdV := false }) (hj : Judged s t)
  | timer (hr : t.regs = { s.regs with winCnt := t.winCnt }) (hw : t.winCnt ≤ Config.winTicks) (hj : Judged s t)
  | line (hr : t.regs = { s.regs with lineBuf := t.lineBuf })
      (hl : s.lineBuf.length ≤ Config.lineMax → t.lineBuf.length ≤ Config.lineMax) (hj : Judged s t)

theorem microPoll_quiet (mandatory : Bool) (s : State) : Quiet s (microPoll mandatory s) := by
  unfold microPoll
  split
  · split
    · exact raise_quiet _ s
    · exact jump_quiet _ s
  · split <;> exact .of_eq rfl rfl rfl

theorem microPayload_quiet {n : Word} {s t : State} (h : microPayload n s = .next t) : Quiet s t := by
  unfold microPayload at h
  split at h
  · cases h; exact .refl s
  · obtain ⟨-, -, hp⟩ | ⟨-, -, hp⟩ | ⟨-, -, hp⟩ | ⟨b, rest, -, -, hp⟩ := payloadByte_cases s <;>
      rw [hp] at h <;> cases h
    · exact push_quiet _ s
    · exact hold_quiet _ s
    · exact .of_eq rfl rfl rfl

theorem microReadback_quiet (n : Word) (s : State) : Quiet s (microReadback n s) := by
  unfold microReadback
  split
  · exact .refl s
  · exact readOne_quiet _ (fun b u => (cnt_quiet _ u).trans (push_quiet _ _)) s

theorem microHandRb_quiet (b : Byte) (s : State) : Quiet s (microHandRb b s) := by
  unfold microHandRb
  split <;> exact .of_eq rfl rfl rfl

theorem microReadLf_quiet (s : State) : Quiet s (microReadLf s) := by
  unfold microReadLf
  refine readOne_quiet _ (fun b u => ?_) s
  exact .of_eq rfl rfl rfl

theorem microReadPrompt_quiet (s : State) : Quiet s (microReadPrompt s) := by
  unfold microReadPrompt
  refine readOne_quiet _ (fun b u => ?_) s
  exact .of_eq rfl rfl rfl

theorem microExpectPair_quiet (s : State) : Quiet s (microExpectPair s) := by
  unfold microExpectPair
  split <;> exact expect_quiet _ _ s

theorem microConnectTop_quiet (s : State) : Quiet s (microConnectTop s) := by
  unfold microConnectTop
  split
  · exact (setSess_quiet _ s).trans (complete_quiet (by simp))
  · exact jump_quiet _ s

theorem microEofTest_quiet (s : State) : Quiet s (microEofTest s) := by
  unfold microEofTest
  split
  · exact (releaseHex_quiet s).trans (complete_quiet (by simp))
  · exact .refl s

theorem microYield_quiet (s : State) : Quiet s (microYield s) := by
  unfold microYield
  split <;> exact .of_eq rfl rfl rfl

/-- R131: NextLine waits, stores one character, or meets the end of the input. -/
theorem microNextChar_effect (s : State) : MicroEffect .nextChar s (microNextChar s) := by
  unfold microNextChar
  split
  · exact .quiet (hold_quiet _ s)
  · next c rest _ =>
    split <;> exact .line rfl (storeChar_length c) (.of_eq rfl rfl)
  · split
    · exact .quiet ((env_quiet _ s).trans (raise_quiet _ _))
    · exact .quiet (.refl s)

/-- What each statement of the sequencer writes of `Regs`. -/
theorem execMicro_effect {m : Micro} {s t : State} (h : execMicro m s = .next t) : MicroEffect m s t := by
  cases m with
  | send b => cases h; exact .quiet (send_quiet _ _ .refl s)
  | sleep => cases h; exact .timer rfl le_rfl (.of_eq rfl rfl)
  | window => cases h; exact .timer rfl (Nat.zero_le _) (.of_eq rfl rfl)
  | poll mandatory => cases h; exact .quiet (microPoll_quiet mandatory s)
  | cntZero => cases h; exact .quiet (.of_eq rfl rfl rfl)
  | payload n => exact .quiet (microPayload_quiet h)
  | sendPay b => cases h; exact .quiet (send_quiet _ _ (fun u => cnt_quiet _ u) s)
  | readback n => cases h; exact .quiet (microReadback_quiet n s)
  | handRb b => cases h; exact .quiet (microHandRb_quiet b s)
  | readLf => cases h; exact .quiet (microReadLf_quiet s)
  | readPrompt => cases h; exact .quiet (microReadPrompt_quiet s)
  | expectPair => cases h; exact .quiet (microExpectPair_quiet s)
  | tpOpen rate => cases h; exact .quiet (tpRequest_quiet _ _ s)
  | tpClose => cases h; exact .quiet (tpRequest_quiet _ _ s)
  | setBaud rate => cases h; exact .setBaud rate rfl rfl (.of_eq rfl rfl)
  | clearLast => cases h; exact .clearLast rfl rfl (.of_eq rfl rfl)
  | setSess x => cases h; exact .quiet (setSess_quiet x s)
  | connectTop => cases h; exact .quiet (microConnectTop_quiet s)
  | completeOk => cases h; exact .quiet (complete_quiet (by simp))
  | report => cases h; exact .quiet (offerReport_quiet s)
  | lineStart => cases h; exact .line rfl (fun _ => Nat.zero_le _) (.of_eq rfl rfl)
  | nextChar => cases h; exact microNextChar_effect s
  | eofTest => cases h; exact .quiet (microEofTest_quiet s)
  | yield => cases h; exact .quiet (microYield_quiet s)

end Sys2Proof.Machine
end

/-! # The status registers -/
section

namespace Sys2Proof.Machine

theorem InstrEffect.judged {i : Instr} {s t : State} (h : InstrEffect i s t) : Judged s t := by
  cases h with
  | quiet h => exact h.judged
  | opcode _ _ _ _ hj => exact hj
  | decode _ _ _ _ hj => exact hj
  | clearBase _ _ hj => exact hj
  | linearBase _ _ _ _ _ hj => exact hj

theorem MicroEffect.judged {m : Micro} {s t : State} (h : MicroEffect m s t) : Judged s t := by
  cases h with
  | quiet h => exact h.judged
  | setBaud _ _ _ hj => exact hj
  | clearLast _ _ hj => exact hj
  | timer _ _ hj => exact hj
  | line _ _ hj => exact hj

theorem execStmt_judged {st : Stmt} {s t : State} (h : execStmt st s = .next t) : Judged s t := by
  cases st with
  | run i => exact (exec_effect h).judged
  | decodeLine => exact (exec_effect (i := .hexrec _) h).judged
  | act => exact (exec_effect (i := recordInstrOf s) h).judged
  | micro m => exact (execMicro_effect h).judged

/-- A step is the reset input, or writes ANY_FAULT and the status registers only as a completion does. -/
theorem step_judged {s t : State} (h : step s = .next t) :
    (∃ script, s.env.script = .env .reset :: script ∧ t = resetMuf (s.turn script)) ∨ Judged s t := by
  cases stepCase s with
  | env a script hs hr =>
    cases hr.symm.trans h
    by_cases ha : a = .reset
    · subst ha
      exact .inl ⟨script, hs, rfl⟩
    · rw [envStep_ports ha]
      exact .inr (.of_eq rfl rfl)
  | idle script hb hr => cases hr.symm.trans h; exact .inr (turn_quiet script s).judged
  | request script q rest hb hq hr =>
    have hj := (exec_effect (hr.symm.trans h)).judged
    exact .inr (((turn_quiet script s).trans (takeRequest_quiet q rest _)).judged.trans hj)
  | stmt script st rest hb hp hr =>
    have hj := execStmt_judged (hr.symm.trans h)
    exact .inr (((turn_quiet script s).trans (jump_quiet rest _)).judged.trans hj)
  | noStatement hb hp hr => cases hr.symm.trans h

/-- Settles O55: only reset lets ANY_FAULT fall. -/
theorem anyFaultIsSticky : Obligations.AnyFaultIsSticky := by
  intro s t hf hreset hstep
  obtain ⟨script, hs, -⟩ | hj := step_judged hstep
  · exact absurd hs (hreset script)
  · exact hj.fault hf

/-- R31: which causes a status that is no error has. -/
theorem Status.cause_of_not_error {st : Status} (h : ∀ e, st ≠ .error e) :
    st.cause = .ok ∨ st.cause = .cancelled ∨ st.cause = .refused := by
  cases st with
  | ok => exact .inl rfl
  | error e => exact absurd rfl (h e)
  | cancelled => exact .inr (.inl rfl)
  | refused => exact .inr (.inr rfl)

theorem statusValues_eq_iff (s : State) (st : Status) :
    s.statusValues = st.values
      ↔ s.stCause = st.cause ∧ s.stSub = st.sub ∧ s.stExp = st.exp ∧ s.stAct = st.act ∧ s.stCode = st.devCode := by
  simp [State.statusValues, Status.values]

/-- The status registers stay legal where they are written as a completion does. -/
theorem Judged.statusLegal {s t : State} (h : Judged s t) (hs : s.StatusLegal) : t.StatusLegal := by
  obtain ⟨⟨st, hst⟩, hfault⟩ := hs
  obtain hsame | ⟨st', hv, hne⟩ := h.status
  · have hc : t.stCause = s.stCause := congrArg Prod.fst hsame
    refine ⟨⟨st, (statusValues_eq_iff t st).1 (hsame.trans ((statusValues_eq_iff s st).2 hst))⟩, ?_⟩
    rw [hc]
    exact hfault.imp_right (·.imp_right (·.imp_right h.fault))
  · refine ⟨⟨st', (statusValues_eq_iff t st').1 hv⟩, ?_⟩
    have hc : t.stCause = st'.cause := congrArg Prod.fst hv
    rw [hc]
    obtain hn | ht := hne
    · exact (Status.cause_of_not_error hn).imp_right (·.imp_right .inl)
    · exact .inr (.inr (.inr ht))

theorem resetMuf_statusLegal (s : State) : (resetMuf s).StatusLegal :=
  ⟨⟨.ok, rfl, rfl, rfl, rfl, rfl⟩, .inl rfl⟩

/-- Settles O56: reset leaves the values of OK, and every other step is `Judged`. -/
theorem statusRegistersStayLegal : Obligations.StatusRegistersStayLegal := by
  refine ⟨resetMuf_reset ▸ resetMuf_statusLegal State.reset, fun s t hs hstep => ?_⟩
  obtain ⟨script, -, rfl⟩ | hj := step_judged hstep
  · exact resetMuf_statusLegal _
  · exact hj.statusLegal hs

end Sys2Proof.Machine
end

/-!
# What a step writes

From a state that meets the invariant, each writer of a register of `Regs` is one statement of the operation in flight,
or the start of HEXRUN at the host port.
-/
section

namespace Sys2Proof.Machine

/-! ## Which instruction is fetched where -/

/-- R87: only a wire opcode has a frame header. -/
theorem space_of_frameHeader {i : Instr} {op : Byte} {params : List Byte} (h : frameHeader i = op :: params) :
    i.space = .wire := by
  unfold frameHeader at h
  split at h <;> [rfl; rfl; rfl; rfl; rfl; rfl; cases h]

theorem decodeHost_space (op : Nibble) (arg0 arg1 : Word) : (decodeHost op arg0 arg1).space = .host := by
  simp only [decodeHost, apply_ite Instr.space]
  simp only [Instr.space, ite_self]

theorem recordInstr_space (type : Byte) (off : Half) (payload : List Byte) :
    (recordInstr type off payload).space = .record := by
  simp only [recordInstr, apply_ite Instr.space]
  simp only [Instr.space, ite_self]

theorem op_of_decodeHost_eq_hexrun {op : Nibble} {arg0 arg1 : Word} (h : decodeHost op arg0 arg1 = .hexrun) :
    op = 0x9#4 := by
  by_contra hne
  simp [decodeHost, ite_eq_iff, hne] at h

theorem of_recordInstr_eq_linear {type : Byte} {off offset : Half} {payload bytes : List Byte}
    (h : recordInstr type off payload = .hexExtendedLinearAddress offset bytes) :
    type = 0x04#8 ∧ payload = bytes := by
  unfold recordInstr at h
  split_ifs at h with h0 h1 h2 h3 h4
  cases h
  exact ⟨h4, rfl⟩

/-- The sequencer holds, as instructions, only those of an exchange. -/
theorem State.Inv.ofExchange {s : State} (h : s.Inv) (hb : s.busy = true) {i : Instr} {rest : List Stmt}
    (hp : s.prog = .run i :: rest) : ofExchange i = true := by
  have hseq := h.seq hb
  simp only [hp, wellSequenced, seqInstrOk, Bool.and_eq_true] at hseq
  obtain ⟨⟨-, hi, -⟩, -⟩ := hseq
  exact hi

/-- The next statement is one the operation in flight has. -/
theorem State.Inv.ownStmt {s : State} (h : s.Inv) (hb : s.busy = true) {st : Stmt} {rest : List Stmt}
    (hp : s.prog = st :: rest) : ownStmt s.opCur s.p0 st = true := by
  have hown := h.own hb
  simp only [hp, List.all_cons, Bool.and_eq_true] at hown
  exact hown.1

theorem ownStmt_setBaud (op : Nibble) (p0 rate : Word) :
    Machine.ownStmt op p0 (.micro (.setBaud rate)) = ((op == 0x0#4 || op == 0x5#4) && rate == p0) := rfl

theorem ownStmt_clearLast (op : Nibble) (p0 : Word) :
    Machine.ownStmt op p0 (.micro .clearLast) = (op == 0x0#4) := rfl

/-! ## The writers -/

/-- What a step other than reset writes of `Regs`, with the statement or the request that writes it. -/
inductive StepEffect (s t : State) : Prop where
  | quiet (hr : t.regs = s.regs)
  | opcode (i : Instr) (rest : List Stmt) (op : Byte) (params : List Byte) (hb : s.busy = true)
      (hp : s.prog = .run i :: rest) (hi : frameHeader i = op :: params)
      (hr : t.regs = { s.regs with lastCmd := op, lastCmdV := true }) (ho : t.out.tp = s.out.tp ++ [.tx op])
  | decode (rest : List Stmt) (hb : s.busy = true) (hp : s.prog = .decodeLine :: rest)
      (hr : t.regs
        = { s.regs with
            recLen := t.recLen, recOff := t.recOff, recType := t.recType, recPay := t.recPay, recCks := t.recCks })
      (hm : Memory.wf s.recPay = true → Memory.wf t.recPay = true)
  | clearBase (q : Request) (rest : List Request) (hb : s.busy = false) (hq : s.env.reqs = q :: rest)
      (hop : q.op = 0x9#4) (hr : t.regs = { s.regs with abase := 0#32 })
  | linearBase (rest : List Stmt) (b0 b1 : Byte) (hb : s.busy = true) (hp : s.prog = .act :: rest)
      (htype : s.recType = 0x04#8) (hpay : recPayload s = [b0, b1])
      (hr : t.regs = { s.regs with abase := Machine.linearBase b0 b1 })
  | setBaud (rest : List Stmt) (hb : s.busy = true) (hp : s.prog = .micro (.setBaud s.p0) :: rest)
      (hop : s.opCur = 0x0#4 ∨ s.opCur = 0x5#4) (hr : t.regs = { s.regs with baudCur := s.p0 })
  | clearLast (rest : List Stmt) (hb : s.busy = true) (hp : s.prog = .micro .clearLast :: rest)
      (hop : s.opCur = 0x0#4) (hr : t.regs = { s.regs with lastCmdV := false })
  | timer (hr : t.regs = { s.regs with winCnt := t.winCnt }) (hw : t.winCnt ≤ Config.winTicks)
  | line (hr : t.regs = { s.regs with lineBuf := t.lineBuf })
      (hl : s.lineBuf.length ≤ Config.lineMax → t.lineBuf.length ≤ Config.lineMax)

/-- At the host port, only the start of HEXRUN writes a register of `Regs`. -/
theorem stepEffect_of_request {s u t : State} {q : Request} {rest : List Request} (hb : s.busy = false)
    (hq : s.env.reqs = q :: rest) (hu : u.regs = s.regs)
    (h : exec (decodeHost q.op q.arg0 q.arg1) u = .next t) : StepEffect s t := by
  have hspace := decodeHost_space q.op q.arg0 q.arg1
  cases exec_effect h with
  | quiet h => exact .quiet (h.regs.trans hu)
  | opcode op params hi => rw [space_of_frameHeader hi] at hspace; cases hspace
  | decode line hi => rw [hi] at hspace; cases hspace
  | clearBase hi hr => exact .clearBase q rest hb hq (op_of_decodeHost_eq_hexrun hi) (hu ▸ hr)
  | linearBase _ _ _ hi => rw [hi] at hspace; cases hspace

/-- An instruction the sequencer holds writes at most LAST_CMD. -/
theorem stepEffect_of_run {s u t : State} {i : Instr} {rest : List Stmt} (hinv : s.Inv) (hb : s.busy = true)
    (hp : s.prog = .run i :: rest) (hu : u.regs = s.regs) (ho : u.out = s.out) (h : exec i u = .next t) :
    StepEffect s t := by
  have hex := hinv.ofExchange hb hp
  cases exec_effect h with
  | quiet h => exact .quiet (h.regs.trans hu)
  | opcode op params hi hr hj ho' => exact .opcode i rest op params hb hp hi (hu ▸ hr) (ho ▸ ho')
  | decode line hi => rw [hi] at hex; cases hex
  | clearBase hi => rw [hi] at hex; cases hex
  | linearBase _ _ _ hi => rw [hi] at hex; cases hex

/-- The decode of the held line writes at most the record registers. -/
theorem stepEffect_of_decodeLine {s u t : State} {line : List Byte} {rest : List Stmt} (hb : s.busy = true)
    (hp : s.prog = .decodeLine :: rest) (hu : u.regs = s.regs) (h : exec (.hexrec line) u = .next t) :
    StepEffect s t := by
  cases exec_effect h with
  | quiet h => exact .quiet (h.regs.trans hu)
  | opcode op params hi => cases hi
  | decode _ _ hr hm =>
    have hpay : u.recPay = s.recPay := congrArg Regs.recPay hu
    exact .decode rest hb hp (hu ▸ hr) (hpay ▸ hm)
  | clearBase hi => cases hi
  | linearBase _ _ _ hi => cases hi

/-- The action of a record writes at most ABASE. -/
theorem stepEffect_of_act {s u t : State} {rest : List Stmt} (hb : s.busy = true) (hp : s.prog = .act :: rest)
    (hu : u.regs = s.regs) (h : exec (recordInstrOf u) u = .next t) : StepEffect s t := by
  have hspace : (recordInstrOf u).space = .record := recordInstr_space _ _ _
  cases exec_effect h with
  | quiet h => exact .quiet (h.regs.trans hu)
  | opcode op params hi => rw [space_of_frameHeader hi] at hspace; cases hspace
  | decode line hi => rw [hi] at hspace; cases hspace
  | clearBase hi => rw [hi] at hspace; cases hspace
  | linearBase offset b0 b1 hi hr =>
    obtain ⟨htype, hpay⟩ := of_recordInstr_eq_linear hi
    have htype' : u.recType = s.recType := congrArg Regs.recType hu
    have hlen : u.recLen = s.recLen := congrArg Regs.recLen hu
    have hmem : u.recPay = s.recPay := congrArg Regs.recPay hu
    have hpay' : recPayload s = recPayload u := by simp only [recPayload, hlen, hmem]
    exact .linearBase rest b0 b1 hb hp (htype'.symm.trans htype) (hpay'.trans hpay) (hu ▸ hr)

/-- The other statements of the sequencer: the writers of BAUD_CUR and LAST_CMD_V belong to their operations. -/
theorem stepEffect_of_micro {s u t : State} {m : Micro} {rest : List Stmt} (hinv : s.Inv) (hb : s.busy = true)
    (hp : s.prog = .micro m :: rest) (hu : u.regs = s.regs) (h : execMicro m u = .next t) : StepEffect s t := by
  have hown := hinv.ownStmt hb hp
  cases execMicro_effect h with
  | quiet h => exact .quiet (h.regs.trans hu)
  | setBaud rate hm hr =>
    rw [hm] at hp hown
    simp only [ownStmt_setBaud, Bool.and_eq_true, Bool.or_eq_true, beq_iff_eq] at hown
    obtain ⟨hop, rfl⟩ := hown
    exact .setBaud rest hb hp hop (by rw [hr, hu])
  | clearLast hm hr =>
    rw [hm] at hp hown
    exact .clearLast rest hb hp (by simpa [ownStmt_clearLast] using hown) (by rw [hr, hu])
  | timer hr hw => exact .timer (by rw [hr, hu]) hw
  | line hr hl =>
    have hbuf : u.lineBuf = s.lineBuf := congrArg Regs.lineBuf hu
    exact .line (by rw [hr, hu]) (hbuf ▸ hl)

/-- What a step other than reset writes, from a state that meets the invariant. -/
theorem step_effect {s t : State} (hinv : s.Inv) (hreset : ∀ rest, s.env.script ≠ .env .reset :: rest)
    (h : step s = .next t) : StepEffect s t := by
  cases stepCase s with
  | env a script hs hr =>
    cases hr.symm.trans h
    have ha : a ≠ .reset := fun ha => hreset script (ha ▸ hs)
    rw [envStep_ports ha]
    exact .quiet rfl
  | idle script hb hr => cases hr.symm.trans h; exact .quiet rfl
  | request script q rest hb hq hr =>
    have hu : (takeRequest q rest (s.turn script)).regs = s.regs := rfl
    exact stepEffect_of_request hb hq hu (hr.symm.trans h)
  | stmt script st rest hb hp hr =>
    have hexec := hr.symm.trans h
    have hu : (jump rest (s.turn script)).regs = s.regs := rfl
    have ho : (jump rest (s.turn script)).out = s.out := rfl
    cases st with
    | run i => exact stepEffect_of_run hinv hb hp hu ho hexec
    | decodeLine => exact stepEffect_of_decodeLine hb hp hu hexec
    | act => exact stepEffect_of_act hb hp hu hexec
    | micro m => exact stepEffect_of_micro hinv hb hp hu hexec
  | noStatement hb hp hr => cases hr.symm.trans h

/-! ## Each register of `Regs` and its writers -/

/-- R20: the record registers of two states agree where `Regs` does. -/
theorem sameRecord_of_regs {s t : State} (r : Regs) (hr : t.regs = r) (hlen : r.recLen = s.recLen)
    (hoff : r.recOff = s.recOff) (htype : r.recType = s.recType) (hcks : r.recCks = s.recCks)
    (hpay : r.recPay = s.recPay) :
    t.recLen = s.recLen ∧ t.recOff = s.recOff ∧ t.recType = s.recType ∧ t.recCks = s.recCks
      ∧ ∀ a, Memory.read t.recPay a = Memory.read s.recPay a := by
  subst hr
  exact ⟨hlen, hoff, htype, hcks, fun a => congrArg (Memory.read · a) hpay⟩

/-- Settles O25: among the effects of a step and of an instruction, only the decode's reaches the record registers. -/
theorem onlyDecodeWritesTheRecordRegisters : Obligations.OnlyDecodeWritesTheRecordRegisters := by
  refine ⟨fun s t hinv hreset h => ?_, fun i s t hi h => ?_⟩
  · cases step_effect hinv hreset h with
    | decode rest hb hp => exact .inr ⟨hb, rest, hp⟩
    | quiet hr => exact .inl (sameRecord_of_regs _ hr rfl rfl rfl rfl rfl)
    | opcode _ _ _ _ _ _ _ hr => exact .inl (sameRecord_of_regs _ hr rfl rfl rfl rfl rfl)
    | clearBase _ _ _ _ _ hr => exact .inl (sameRecord_of_regs _ hr rfl rfl rfl rfl rfl)
    | linearBase _ _ _ _ _ _ _ hr => exact .inl (sameRecord_of_regs _ hr rfl rfl rfl rfl rfl)
    | setBaud _ _ _ _ hr => exact .inl (sameRecord_of_regs _ hr rfl rfl rfl rfl rfl)
    | clearLast _ _ _ _ hr => exact .inl (sameRecord_of_regs _ hr rfl rfl rfl rfl rfl)
    | timer hr => exact .inl (sameRecord_of_regs _ hr rfl rfl rfl rfl rfl)
    | line hr => exact .inl (sameRecord_of_regs _ hr rfl rfl rfl rfl rfl)
  · cases exec_effect h with
    | decode line hd => exact absurd hd (hi line)
    | quiet h => exact sameRecord_of_regs _ h.regs rfl rfl rfl rfl rfl
    | opcode _ _ _ hr => exact sameRecord_of_regs _ hr rfl rfl rfl rfl rfl
    | clearBase _ hr => exact sameRecord_of_regs _ hr rfl rfl rfl rfl rfl
    | linearBase _ _ _ _ hr => exact sameRecord_of_regs _ hr rfl rfl rfl rfl rfl

/-- Settles O57: among the effects of a step, only `BAUD_CUR <- rate` reaches BAUD_CUR. -/
theorem onlyOpenAndBaudSetTheRate : Obligations.OnlyOpenAndBaudSetTheRate := by
  intro s t hinv hreset h
  cases step_effect hinv hreset h with
  | setBaud rest hb hp hop hr => exact .inr ⟨hb, hop, congrArg Regs.baudCur hr, rest, hp⟩
  | quiet hr => exact .inl (congrArg Regs.baudCur hr)
  | opcode _ _ _ _ _ _ _ hr => exact .inl (congrArg Regs.baudCur hr)
  | decode _ _ _ hr => exact .inl (congrArg Regs.baudCur hr)
  | clearBase _ _ _ _ _ hr => exact .inl (congrArg Regs.baudCur hr)
  | linearBase _ _ _ _ _ _ _ hr => exact .inl (congrArg Regs.baudCur hr)
  | clearLast _ _ _ _ hr => exact .inl (congrArg Regs.baudCur hr)
  | timer hr => exact .inl (congrArg Regs.baudCur hr)
  | line hr => exact .inl (congrArg Regs.baudCur hr)

/-- Settles O58: among the effects of a step and of an instruction, only two reach ABASE. -/
theorem onlyHexrunAndLinearRecordsSetTheBase : Obligations.OnlyHexrunAndLinearRecordsSetTheBase := by
  refine ⟨fun s t hinv hreset h => ?_, fun i s t h => ?_⟩
  · cases step_effect hinv hreset h with
    | clearBase q rest hb hq hop hr => exact .inr (.inl ⟨hb, ⟨q, rest, hq, hop⟩, congrArg Regs.abase hr⟩)
    | linearBase rest b0 b1 hb hp htype hpay hr =>
      exact .inr (.inr ⟨hb, ⟨rest, hp⟩, htype, b0, b1, hpay, congrArg Regs.abase hr⟩)
    | quiet hr => exact .inl (congrArg Regs.abase hr)
    | opcode _ _ _ _ _ _ _ hr => exact .inl (congrArg Regs.abase hr)
    | decode _ _ _ hr => exact .inl (congrArg Regs.abase hr)
    | setBaud _ _ _ _ hr => exact .inl (congrArg Regs.abase hr)
    | clearLast _ _ _ _ hr => exact .inl (congrArg Regs.abase hr)
    | timer hr => exact .inl (congrArg Regs.abase hr)
    | line hr => exact .inl (congrArg Regs.abase hr)
  · cases exec_effect h with
    | clearBase hi hr => exact .inr (.inl ⟨hi, congrArg Regs.abase hr⟩)
    | linearBase offset b0 b1 hi hr => exact .inr (.inr ⟨offset, b0, b1, hi, congrArg Regs.abase hr⟩)
    | quiet h => exact .inl (congrArg Regs.abase h.regs)
    | opcode _ _ _ hr => exact .inl (congrArg Regs.abase hr)
    | decode _ _ hr => exact .inl (congrArg Regs.abase hr)

/-- A byte handed to TP is the next byte sent. -/
theorem sent_of_tp_append {o o' : Outputs} {b : Byte} (h : o'.tp = o.tp ++ [.tx b]) : o'.sent = o.sent ++ [b] := by
  simp [Outputs.sent, h]

/-- LAST_CMD and LAST_CMD_V of two states agree where `Regs` does. -/
theorem sameLastCmd_of_regs {s t : State} (r : Regs) (hr : t.regs = r) (hc : r.lastCmd = s.lastCmd)
    (hv : r.lastCmdV = s.lastCmdV) : t.lastCmd = s.lastCmd ∧ t.lastCmdV = s.lastCmdV := by
  subst hr
  exact ⟨hc, hv⟩

/-- Settles O59: among the effects of a step and of an instruction, only two reach LAST_CMD and LAST_CMD_V. -/
theorem onlyOpcodeBytesAreRecorded : Obligations.OnlyOpcodeBytesAreRecorded := by
  refine ⟨fun s t hinv hreset h => ?_, fun i s t h => ?_⟩
  · cases step_effect hinv hreset h with
    | opcode i rest op params hb hp hi hr ho =>
      have hc : t.lastCmd = op := congrArg Regs.lastCmd hr
      subst hc
      exact .inr (.inl ⟨hb, congrArg Regs.lastCmdV hr, sent_of_tp_append ho, i, rest, params, hp, hi⟩)
    | clearLast rest hb hp hop hr =>
      exact .inr (.inr ⟨hb, hop, congrArg Regs.lastCmd hr, congrArg Regs.lastCmdV hr, rest, hp⟩)
    | quiet hr => exact .inl (sameLastCmd_of_regs _ hr rfl rfl)
    | decode _ _ _ hr => exact .inl (sameLastCmd_of_regs _ hr rfl rfl)
    | clearBase _ _ _ _ _ hr => exact .inl (sameLastCmd_of_regs _ hr rfl rfl)
    | linearBase _ _ _ _ _ _ _ hr => exact .inl (sameLastCmd_of_regs _ hr rfl rfl)
    | setBaud _ _ _ _ hr => exact .inl (sameLastCmd_of_regs _ hr rfl rfl)
    | timer hr => exact .inl (sameLastCmd_of_regs _ hr rfl rfl)
    | line hr => exact .inl (sameLastCmd_of_regs _ hr rfl rfl)
  · cases exec_effect h with
    | opcode op params hi hr hj ho =>
      have hc : t.lastCmd = op := congrArg Regs.lastCmd hr
      subst hc
      exact .inr ⟨congrArg Regs.lastCmdV hr, ⟨params, hi⟩, sent_of_tp_append ho⟩
    | quiet h => exact .inl (sameLastCmd_of_regs _ h.regs rfl rfl)
    | decode _ _ hr => exact .inl (sameLastCmd_of_regs _ hr rfl rfl)
    | clearBase _ hr => exact .inl (sameLastCmd_of_regs _ hr rfl rfl)
    | linearBase _ _ _ _ hr => exact .inl (sameLastCmd_of_regs _ hr rfl rfl)

end Sys2Proof.Machine
end

/-!
# The invariant

`State.Inv` is cut in two: what it says of the registers of `Regs`, which follows from `step_effect`, and `Sequenced`,
what it says of the operation in flight, which is proved statement by statement.
-/
section

namespace Sys2Proof.Machine

/-! ## The registers -/

/-- What the invariant says of the registers of `Regs` (R21, R22, R23, R30, R34). -/
structure Regs.Wf (r : Regs) : Prop where
  recPay : Memory.wf r.recPay = true
  abase : r.abase.extractLsb' 0 16 = 0#16
  lineBuf : r.lineBuf.length ≤ Config.lineMax
  lastCmd : r.lastCmdV = true → isOpcode r.lastCmd = true
  winCnt : r.winCnt ≤ Config.winTicks

/-- R87: the first byte of a frame is one of the six wire opcodes. -/
theorem isOpcode_of_frameHeader {i : Instr} {op : Byte} {params : List Byte} (h : frameHeader i = op :: params) :
    isOpcode op = true := by
  unfold frameHeader at h
  split at h <;> cases h <;> rfl

/-- R137, R23: the base of a record has a zero lower half. -/
theorem linearBase_low (b0 b1 : Byte) : (linearBase b0 b1).extractLsb' 0 16 = 0#16 := by
  exact BitVec.extractLsb'_append_eq_right

theorem StepEffect.regs_wf {s t : State} (h : StepEffect s t) (hs : s.regs.Wf) : t.regs.Wf := by
  cases h with
  | quiet hr => rwa [hr]
  | opcode i rest op params hb hp hi hr ho =>
    rw [hr]; exact { hs with lastCmd := fun _ => isOpcode_of_frameHeader hi }
  | decode rest hb hp hr hm => rw [hr]; exact { hs with recPay := hm hs.recPay }
  | clearBase q rest hb hq hop hr => rw [hr]; exact { hs with abase := BitVec.extractLsb'_zero }
  | linearBase rest b0 b1 hb hp htype hpay hr => rw [hr]; exact { hs with abase := linearBase_low b0 b1 }
  | setBaud rest hb hp hop hr => rw [hr]; exact { hs with }
  | clearLast rest hb hp hop hr => rw [hr]; exact { hs with lastCmd := fun hv => by cases hv }
  | timer hr hw => rw [hr]; exact { hs with winCnt := hw }
  | line hr hl => rw [hr]; exact { hs with lineBuf := hl hs.lineBuf }

/-! ## The operation in flight -/

/-- What the invariant says of the sequencer (R27, R29, R30, R33, R170). -/
structure State.Sequenced (s : State) : Prop where
  hex : s.hsActive = true → s.busy = true ∧ s.opCur = 0x9#4
  rest : s.busy = false → s.prog = [] ∧ s.sess.resting = true
  seq : s.busy = true → wellSequenced s.hsActive (some s.cnt) s.sess s.prog = true
  own : s.busy = true → s.prog.all (ownStmt s.opCur s.p0) = true

theorem inv_iff (s : State) : s.Inv ↔ s.regs.Wf ∧ s.Sequenced :=
  ⟨fun h => ⟨⟨h.recPay, h.abase, h.lineBuf, h.lastCmd, h.winCnt⟩, ⟨h.hex, h.rest, h.seq, h.own⟩⟩,
    fun ⟨r, q⟩ => ⟨r.recPay, r.abase, r.lineBuf, q.hex, q.rest, q.seq, q.own, r.lastCmd, r.winCnt⟩⟩

/-- The sequencer of `u` has moved past `st`, the next statement of a state that is `Sequenced`. -/
structure MovedPast (st : Stmt) (u : State) : Prop where
  busy : u.busy = true
  hex : u.hsActive = true → u.opCur = 0x9#4
  seq : wellSequenced u.hsActive (some u.cnt) u.sess (st :: u.prog) = true
  ownHead : ownStmt u.opCur u.p0 st = true
  ownRest : u.prog.all (ownStmt u.opCur u.p0) = true

theorem State.Inv.movedPast {s : State} (h : s.Inv) (hb : s.busy = true) {st : Stmt} {rest : List Stmt}
    (hp : s.prog = st :: rest) (script : List Turn) : MovedPast st (jump rest (s.turn script)) where
  busy := hb
  hex hh := (h.hex hh).2
  seq := hp ▸ h.seq hb
  ownHead := h.ownStmt hb hp
  ownRest := by
    have hown := h.own hb
    simp only [hp, List.all_cons, Bool.and_eq_true] at hown
    exact hown.2

/-- What no statement of an exchange writes: BUSY, HS_ACTIVE, OP_CUR and P[0]. -/
def State.control (s : State) : Bool × Bool × Nibble × Word := (s.busy, s.hsActive, s.opCur, s.p0)

theorem control_eq_iff (s t : State) :
    t.control = s.control ↔ t.busy = s.busy ∧ t.hsActive = s.hsActive ∧ t.opCur = s.opCur ∧ t.p0 = s.p0 := by
  simp [State.control]

/-- Statements that every operation may have. -/
def Unowned (l : List Stmt) : Prop := ∀ op p0, l.all (ownStmt op p0) = true

theorem Unowned.nil : Unowned [] := fun _ _ => rfl

/-- The operation goes on with unowned statements before those still to run. -/
theorem MovedPast.goOn {st : Stmt} {u t : State} (h : MovedPast st u) {l : List Stmt} (hc : t.control = u.control)
    (hp : t.prog = l ++ u.prog) (hl : Unowned l)
    (hs : wellSequenced u.hsActive (some t.cnt) t.sess (l ++ u.prog) = true) : t.Sequenced := by
  obtain ⟨hbusy, hhs, hop, hp0⟩ := (control_eq_iff u t).1 hc
  exact {
    hex := fun hh => ⟨hbusy.trans h.busy, hop.trans (h.hex (hhs ▸ hh))⟩
    rest := fun hb => by rw [hbusy, h.busy] at hb; cases hb
    seq := fun _ => by rw [hhs, hp]; exact hs
    own := fun _ => by rw [hop, hp0, hp, List.all_append, hl, h.ownRest]; rfl }

/-- The operation goes on with the statements still to run. -/
theorem MovedPast.next {st : Stmt} {u t : State} (h : MovedPast st u) (hc : t.control = u.control)
    (hp : t.prog = u.prog) (hs : wellSequenced u.hsActive (some t.cnt) t.sess u.prog = true) : t.Sequenced :=
  h.goOn hc (l := []) hp .nil hs

/-- A step that waits leaves the operation as it is (R243). -/
theorem MovedPast.hold {st : Stmt} {u : State} (h : MovedPast st u) : (hold st u).Sequenced where
  hex hh := ⟨h.busy, h.hex hh⟩
  rest hb := by rw [hold_busy, h.busy] at hb; cases hb
  seq _ := h.seq
  own _ := by simp [h.ownHead, h.ownRest]

/-! ## The shared operations -/

/-- A completion ends the operation, or holds at its report (R209). -/
theorem offerReport_sequenced {u : State} (hb : u.busy = true) (hh : u.hsActive = false) (hx : u.sess.resting = true) :
    (offerReport u).Sequenced := by
  obtain ⟨-, h⟩ | ⟨-, h⟩ := offerReport_cases u <;> rw [h]
  · exact ⟨fun h => by simp [hh] at h, fun _ => ⟨rfl, hx⟩, fun h => (by cases h), fun h => (by cases h)⟩
  · exact ⟨fun h => by simp [hh] at h, fun h => by simp [hb] at h,
      fun _ => by simp [wellSequenced, hh, hx], fun _ => rfl⟩

theorem complete_sequenced (st : Status) {u : State} (hb : u.busy = true) (hh : u.hsActive = false)
    (hx : u.sess.resting = true) : (complete st u).Sequenced :=
  offerReport_sequenced (u := writeStatus st u) hb hh hx

/-- R207: SESS after an error is a state a request is judged in. -/
theorem afterError_resting {e : Err} {x : Sess} (h : e.ofCf = true ∨ x.resting = true) :
    (afterError e x).resting = true := by
  cases he : e.ofCf with
  | true =>
    rw [afterError_cf he]
    split <;> rfl
  | false =>
    rw [afterError_file he]
    simpa [he] using h

/-- An error ends the operation (R207): one of CF in any session, one of HSR only where SESS may stay. -/
theorem raise_sequenced {e : Err} {u : State} (hb : u.busy = true) (hx : e.ofCf = true ∨ u.sess.resting = true) :
    (raise e u).Sequenced :=
  complete_sequenced (.error e) hb rfl (afterError_resting hx)

theorem MovedPast.raise {st : Stmt} {u : State} (h : MovedPast st u) {e : Err} (he : e.ofCf = true) :
    (raise e u).Sequenced :=
  raise_sequenced h.busy (.inl he)

theorem MovedPast.expect {st : Stmt} {u : State} (h : MovedPast st u) (e a : Byte)
    (hs : wellSequenced u.hsActive (some u.cnt) u.sess u.prog = true) : (expect e a u).Sequenced := by
  obtain ⟨-, hx⟩ | ⟨-, hx⟩ := expect_cases e a u <;> rw [hx]
  · exact h.next rfl rfl hs
  · exact h.raise rfl

theorem MovedPast.send {st : Stmt} {u : State} (h : MovedPast st u) (b : Byte) {k : State → State}
    (hk : (k (emit (.tx b) u)).Sequenced) : (send b st k u).Sequenced := by
  obtain ⟨-, hx⟩ | ⟨-, hx⟩ := send_cases b st k u <;> rw [hx]
  · exact hk
  · exact h.hold

theorem MovedPast.sendOpcode {i : Instr} {u : State} (h : MovedPast (.run i) u) (op : Byte) {tail : List Stmt}
    (hl : Unowned tail) (hs : wellSequenced u.hsActive (some u.cnt) u.sess (tail ++ u.prog) = true) :
    (sendOpcode op i tail u).Sequenced :=
  h.send op (h.goOn rfl rfl hl hs)

theorem MovedPast.readOne {st : Stmt} {u : State} (h : MovedPast st u) {k : Byte → State → State}
    (hk : ∀ b rest, (k b { u with env := { u.env with rx := rest } }).Sequenced) : (readOne st k u).Sequenced := by
  obtain ⟨b, rest, -, hx⟩ | ⟨-, -, -, hx⟩ | ⟨-, -, hx⟩ := readOne_cases st k u <;> rw [hx]
  · exact hk b rest
  · exact raise_sequenced h.busy (.inl rfl)
  · exact h.hold

theorem MovedPast.tpRequest {st : Stmt} {u : State} (h : MovedPast st u) (o : TpOut)
    (hs : wellSequenced u.hsActive (some u.cnt) u.sess u.prog = true) : (tpRequest o st u).Sequenced := by
  obtain ⟨q, acks, -, hx⟩ | ⟨-, hx⟩ := tpRequest_cases o st u <;> rw [hx]
  · exact h.next rfl rfl hs
  · exact h.hold

/-! ## Sequences of statements -/

theorem and_eq_true_imp {a b c : Bool} (h : (a && b) = true) (hbc : b = true → c = true) : (a && c) = true := by
  rw [Bool.and_eq_true] at h ⊢
  exact h.imp_right hbc

/-- Statements that are in order whatever CNT holds are in order with any value of it. -/
theorem wellSequenced_some {hs : Bool} {x : Sess} {l : List Stmt} (h : wellSequenced hs none x l = true) (v : Word) :
    wellSequenced hs (some v) x l = true := by
  induction l generalizing x v with
  | nil => cases h
  | cons st r ih =>
    cases st with
    | run | act => exact h
    | decodeLine => exact and_eq_true_imp h (ih · v)
    | micro m =>
      cases m with
      | sleep | window | tpOpen | tpClose | setBaud | clearLast => exact ih h v
      | cntZero | readback | connectTop | completeOk | report | yield => exact h
      | sendPay => exact and_eq_true_imp h (ih · (v + 1#32))
      | payload n =>
        simp only [wellSequenced, Bool.and_false, Bool.or_false, Bool.and_eq_true] at h ⊢
        obtain ⟨⟨hx, hh⟩, hl⟩ := h
        exact ⟨⟨hx, by rw [hh]; rfl⟩, hl⟩
      | send | poll | handRb | readLf | readPrompt | expectPair | setSess | lineStart | nextChar | eofTest =>
        exact and_eq_true_imp h (ih · v)

section exchange
variable {hs : Bool} {c : Option Word} {x : Sess} (hx : x.exchanging = true)
include hx

theorem wellSequenced_responseTest (l : List Stmt) :
    wellSequenced hs c x (responseTest true ++ l) = wellSequenced hs c x l := by
  simp [responseTest, wellSequenced, hx]

theorem wellSequenced_sendU32 (v : Word) (l : List Stmt) :
    wellSequenced hs c x (sendU32 v ++ l) = wellSequenced hs c x l := by
  simp [sendU32, le32, wellSequenced, hx]

/-- A response to be compared. -/
theorem wellSequenced_response {i : Instr} (hi : seqInstrOk hs x i = true) {l : List Stmt}
    (hl : wellSequenced hs none x l = true) : wellSequenced hs c x (responseTest true ++ .run i :: l) = true := by
  simp [wellSequenced_responseTest hx, wellSequenced, hi, hl]

end exchange

/-! ## The instructions of an exchange -/

/-- What the sequencer requires of the instruction it holds. -/
theorem MovedPast.run_inv {i : Instr} {u : State} (h : MovedPast (.run i) u) :
    u.sess.exchanging = true ∧ ofExchange i = true ∧ loadFits u.hsActive i = true
      ∧ (alwaysRaises i = true ∨ wellSequenced u.hsActive none u.sess u.prog = true) := by
  have hseq := h.seq
  simp only [wellSequenced, seqInstrOk, Bool.and_eq_true, Bool.or_eq_true] at hseq
  obtain ⟨⟨hx, hi, hfits⟩, hrest⟩ := hseq
  exact ⟨hx, hi, hfits, hrest⟩

/-- The frame and the exchange of an OP_LOAD stay inside REC_PAY (R160). -/
theorem wellSequenced_load {hs : Bool} {c : Option Word} {x : Sess} {address length : Word} {l : List Stmt}
    (hx : x.exchanging = true) (hfits : loadFits hs (.opLoad address length) = true)
    (hl : wellSequenced hs none x l = true) :
    wellSequenced hs c x
      (responseTest true ++ sendU32 address ++ responseTest true ++ sendU32 length ++ responseTest true
        ++ [.micro .cntZero, .micro (.payload length)] ++ responseTest true ++ [.run .ackOk] ++ l) = true := by
  simp only [List.append_assoc, List.cons_append, List.nil_append, wellSequenced_responseTest hx,
    wellSequenced_sendU32 hx, wellSequenced]
  cases hs with
  | false => simp [hx, seqInstrOk, hl, ofExchange, loadFits]
  | true => simpa [hx, seqInstrOk, hl, ofExchange, loadFits] using hfits

/-- R161: CrTail goes on with its two reads, or its first comparison fails. -/
theorem MovedPast.execCrSequence {u t : State} (h : MovedPast (.run .crSequence) u) (hx : u.sess.exchanging = true)
    (hl : wellSequenced u.hsActive none u.sess u.prog = true) (he : execCrSequence u = .next t) : t.Sequenced := by
  unfold Machine.execCrSequence at he
  split at he <;> cases he
  · exact h.goOn rfl rfl (fun _ _ => rfl) (by simp [wellSequenced, hx, wellSequenced_some hl])
  · exact h.expect _ _ (wellSequenced_some hl _)

/-- An instruction of an exchange keeps the operation in order. -/
theorem MovedPast.exec {i : Instr} {u t : State} (h : MovedPast (.run i) u) (he : exec i u = .next t) :
    t.Sequenced := by
  obtain ⟨hx, hi, hfits, hrest⟩ := h.run_inv
  have hok {j : Instr} (hj : ofExchange j = true) (hf : loadFits u.hsActive j = true) :
      seqInstrOk u.hsActive u.sess j = true := by simp [seqInstrOk, hx, hj, hf]
  by_cases hr : alwaysRaises i = true
  · cases i with
    | errResponse => cases he; exact h.readOne fun b rest => raise_sequenced h.busy (.inl rfl)
    | _ => cases hr
  have hl := hrest.resolve_left hr
  have hl' := wellSequenced_some hl u.cnt
  have hack := wellSequenced_response (c := none) hx (hok (j := .ackOk) rfl rfl) hl
  have hecho := wellSequenced_response (c := some u.cnt) hx (hok (j := .ackEchoBaud) rfl rfl) hl
  have hcr := wellSequenced_response (c := some u.cnt) hx (hok (j := .crSequence) rfl rfl) hl
  have hread (size : Word) := wellSequenced_response (c := some u.cnt) hx (hok (j := .vfyReadback size) rfl rfl) hl
  cases i with
  | opSync => cases he; exact h.sendOpcode _ .nil hl'
  | opCr => cases he; exact h.sendOpcode _ (fun _ _ => rfl) hcr
  | opBaud rate =>
    cases he
    refine h.sendOpcode _ (fun _ _ => rfl) ?_
    simpa [wellSequenced_responseTest hx, wellSequenced_sendU32 hx] using hecho
  | opLoad address length => cases he; exact h.sendOpcode _ (fun _ _ => rfl) (wellSequenced_load hx hfits hl)
  | opVfy address size =>
    cases he
    refine h.sendOpcode _ (fun _ _ => rfl) ?_
    simpa [wellSequenced_responseTest hx, wellSequenced_sendU32 hx] using hread size
  | opRun address =>
    cases he
    refine h.sendOpcode _ (fun _ _ => rfl) ?_
    simpa [wellSequenced_responseTest hx, wellSequenced_sendU32 hx] using hl'
  | ackOk => cases he; exact h.expect _ _ hl'
  | ackEchoBaud => cases he; exact h.expect _ _ hl'
  | crSequence => exact h.execCrSequence hx hl he
  | vfyReadback size =>
    cases he
    refine h.goOn rfl rfl (fun _ _ => rfl) ?_
    simpa [wellSequenced, hx] using hack
  | errResponse => exact absurd rfl hr
  | _ => cases hi

/-! ## The HEX line and the record types -/

/-- R110, R144: a line that is no record ends the HEXRUN in the session it is in. -/
theorem MovedPast.execHexrec {line : List Byte} {u t : State} (h : MovedPast .decodeLine u)
    (he : execHexrec line u = .next t) : t.Sequenced := by
  have hseq := h.seq
  simp only [wellSequenced, Bool.and_eq_true] at hseq
  obtain ⟨⟨-, hx⟩, hl⟩ := hseq
  unfold Machine.execHexrec at he
  split at he <;> cases he
  · exact h.next rfl rfl hl
  · exact raise_sequenced h.busy (.inr hx)

/-- What the sequencer requires of a record's action: HEXRUN, a resting session, and only the yield after it. -/
theorem MovedPast.act_inv {u : State} (h : MovedPast .act u) :
    u.hsActive = true ∧ u.sess.resting = true ∧ u.prog = [.micro .eofTest, .micro .yield] := by
  have hseq := h.seq
  simp only [wellSequenced, Bool.and_eq_true, decide_eq_true_eq] at hseq
  obtain ⟨⟨hh, hx⟩, hp⟩ := hseq
  exact ⟨hh, hx, hp⟩

/-- R132: after a record's action, or the operation it starts, HEXRUN goes on with the yield. -/
theorem MovedPast.afterAct {u t : State} (h : MovedPast .act u) {l : List Stmt} (hb : t.busy = u.busy)
    (hh : t.hsActive = u.hsActive) (hop : t.opCur = u.opCur) (hp : t.prog = l ++ u.prog) (hl : Unowned l)
    (hs : wellSequenced true (some t.cnt) t.sess (l ++ [.micro .eofTest, .micro .yield]) = true) : t.Sequenced := by
  obtain ⟨hhs, -, hprog⟩ := h.act_inv
  rw [hprog] at hp
  exact {
    hex := fun _ => ⟨hb.trans h.busy, hop.trans (h.hex hhs)⟩
    rest := fun hb' => by rw [hb, h.busy] at hb'; cases hb'
    seq := fun _ => by rw [hh, hhs, hp]; exact hs
    own := fun _ => by rw [hp, List.all_append, hl]; rfl }

/-- The action of a record that changes nothing of the sequencer. -/
theorem MovedPast.passed {u t : State} (h : MovedPast .act u) (hc : t.control = u.control) (hx : t.sess = u.sess)
    (hp : t.prog = u.prog) : t.Sequenced := by
  obtain ⟨hb, hh, hop, -⟩ := (control_eq_iff u t).1 hc
  refine h.afterAct (l := []) hb hh hop hp .nil ?_
  rw [hx]
  simp [wellSequenced, h.act_inv.2.1]

/-- R142: an event of HSR starts its operation in an Idle session, or ends the HEXRUN. -/
theorem MovedPast.wiredOperation {u : State} (h : MovedPast .act u) (op : HostOp) {run : State → State}
    (hrun : admits op u.sess = true → (run u).Sequenced) : (wiredOperation op run u).Sequenced := by
  obtain ⟨ha, hx⟩ | ⟨-, hx⟩ := wiredOperation_cases op run u <;> rw [hx]
  · exact hrun ha
  · exact complete_sequenced _ (u := releaseHex u) h.busy rfl h.act_inv.2.1

/-- R133, R142: the load of a Data record, at most 255 bytes long. -/
theorem MovedPast.execHexData {offset : Half} {payload : List Byte} {u t : State} (h : MovedPast .act u)
    (hlen : payload.length ≤ Config.recPaySize) (he : execHexData offset payload u = .next t) : t.Sequenced := by
  cases he
  refine h.wiredOperation .load fun _ => ?_
  refine h.afterAct (l := loadBody (writeAddress u.abase offset) (BitVec.ofNat 32 payload.length))
    (by simp) (by simp) (by simp) (by simp) (fun _ _ => rfl) ?_
  have hfits : payload.length % 2 ^ 32 ≤ Config.recPaySize := (Nat.mod_le _ _).trans hlen
  simpa [loadBody, wellSequenced, seqInstrOk, Sess.exchanging, ofExchange, loadFits, sessEdge, Sess.resting] using hfits

/-- R138, R142: the run of a StartLinearAddress record, from an Idle session to Running. -/
theorem MovedPast.execHexStartLinearAddress {offset : Half} {payload : List Byte} {u t : State}
    (h : MovedPast .act u) (he : execHexStartLinearAddress offset payload u = .next t) : t.Sequenced := by
  unfold Machine.execHexStartLinearAddress at he
  split at he <;> cases he
  · refine h.wiredOperation .run fun ha => ?_
    have hidle : u.sess = .idle := by simpa [admits] using ha
    refine h.afterAct (l := runBody _) rfl rfl rfl rfl (fun _ _ => rfl) ?_
    simp [hidle, runBody, wellSequenced, seqInstrOk, Sess.exchanging, ofExchange, loadFits, sessEdge, Sess.resting]
  · exact raise_sequenced h.busy (.inr h.act_inv.2.1)

/-- R137: an ExtendedLinearAddress record sets ABASE, or ends the HEXRUN. -/
theorem MovedPast.execHexExtendedLinearAddress {offset : Half} {payload : List Byte} {u t : State}
    (h : MovedPast .act u) (he : execHexExtendedLinearAddress offset payload u = .next t) : t.Sequenced := by
  unfold Machine.execHexExtendedLinearAddress at he
  split at he <;> cases he
  · exact h.passed rfl rfl rfl
  · exact raise_sequenced h.busy (.inr h.act_inv.2.1)

theorem recPayload_length (s : State) : (recPayload s).length = s.recLen.toNat := by
  have key (m : Memory) (n i : Nat) : (Memory.readBytes m i n).length = n := by
    induction n generalizing i with
    | zero => rfl
    | succ n ih => simp [Memory.readBytes, ih]
  exact key _ _ _

/-- A record's action keeps the operation in order. -/
theorem MovedPast.act {u t : State} (h : MovedPast .act u) (he : Machine.exec (recordInstrOf u) u = .next t) :
    t.Sequenced := by
  have hlen : (recPayload u).length ≤ Config.recPaySize := by
    have := u.recLen.isLt
    simp only [recPayload_length, Config.recPaySize]
    omega
  unfold recordInstrOf recordInstr at he
  split_ifs at he
  · exact h.execHexData hlen he
  · cases he; exact h.passed rfl rfl rfl
  · cases he; exact h.passed rfl rfl rfl
  · cases he; exact h.passed rfl rfl rfl
  · exact h.execHexExtendedLinearAddress (offset := u.recOff) he
  · exact h.execHexStartLinearAddress (offset := u.recOff) he
  · cases he; exact h.passed rfl rfl rfl

/-! ## The statements of the sequencer -/

theorem MovedPast.microPoll {mandatory : Bool} {u : State} (h : MovedPast (.micro (.poll mandatory)) u) :
    (microPoll mandatory u).Sequenced := by
  have hseq := h.seq
  simp only [wellSequenced, Bool.and_eq_true, Bool.or_eq_true, Bool.not_eq_true', beq_iff_eq] at hseq
  obtain ⟨⟨hx, hm⟩, hl⟩ := hseq
  unfold Machine.microPoll
  split
  · split
    · exact h.raise rfl
    · next hnot =>
      obtain ⟨hh, hconn⟩ := hm.resolve_left hnot
      exact ⟨fun h' => by simp [hh] at h', fun hb => by simp [h.busy] at hb,
        fun _ => by simp [wellSequenced, hh, hconn], fun _ => rfl⟩
  · split
    · exact h.goOn rfl rfl (fun _ _ => rfl)
        (by simp [wellSequenced, seqInstrOk, hx, ofExchange, loadFits, alwaysRaises])
    · exact h.next rfl rfl hl

/-- What the sequencer requires of the payload loop: a wired load keeps CNT at most the length, which REC_PAY holds. -/
theorem MovedPast.payload_inv {n : Word} {u : State} (h : MovedPast (.micro (.payload n)) u) :
    u.sess.exchanging = true
      ∧ (u.hsActive = true → n.toNat ≤ Config.recPaySize ∧ u.cnt.toNat ≤ n.toNat)
      ∧ wellSequenced u.hsActive none u.sess u.prog = true := by
  have hseq := h.seq
  simp only [wellSequenced, Bool.and_eq_true, Bool.or_eq_true, Bool.not_eq_true', decide_eq_true_eq] at hseq
  obtain ⟨⟨hx, hfits⟩, hl⟩ := hseq
  exact ⟨hx, fun hh => hfits.resolve_left (by simp [hh]), hl⟩

/-- A count below the length stays at most the length when it is raised by one. -/
theorem toNat_add_one_le {c n : Word} (hle : c.toNat ≤ n.toNat) (hne : c ≠ n) : (c + 1#32).toNat ≤ n.toNat := by
  bv_omega

/-- R160: after a payload byte has been taken it is sent, and the loop goes on. -/
theorem MovedPast.afterPayloadByte {n : Word} {u : State} (h : MovedPast (.micro (.payload n)) u) (hne : u.cnt ≠ n)
    (b : Byte) (env : Env) :
    (push [.micro (.sendPay b), .micro (.payload n)] { u with env := env }).Sequenced := by
  obtain ⟨hx, hfits, hl⟩ := h.payload_inv
  refine h.goOn rfl rfl (fun _ _ => rfl) ?_
  cases hh : u.hsActive with
  | false => simpa [wellSequenced, hx, hh] using hl
  | true =>
    obtain ⟨hn, hc⟩ := hfits hh
    have hc' := toNat_add_one_le hc hne
    simp [wellSequenced, hx, hh ▸ hl, hn, hc', -BitVec.toNat_add]

theorem MovedPast.microPayload {n : Word} {u t : State} (h : MovedPast (.micro (.payload n)) u)
    (he : microPayload n u = .next t) : t.Sequenced := by
  unfold Machine.microPayload at he
  split at he
  · cases he; exact h.next rfl rfl (wellSequenced_some h.payload_inv.2.2 _)
  · next hne =>
    obtain ⟨-, -, hp⟩ | ⟨-, -, hp⟩ | ⟨-, -, hp⟩ | ⟨b, rest, -, -, hp⟩ := payloadByte_cases u <;>
      rw [hp] at he <;> cases he
    · exact h.afterPayloadByte hne _ u.env
    · exact h.hold
    · exact h.afterPayloadByte hne b _

/-- A wired load never counts beyond REC_PAY, so SendPayload always answers a next state (R21, R160). -/
theorem MovedPast.microPayload_answers {n : Word} {u : State} (h : MovedPast (.micro (.payload n)) u) :
    ∃ t, Machine.microPayload n u = .next t := by
  unfold Machine.microPayload
  split
  · exact ⟨_, rfl⟩
  · next hne =>
    obtain ⟨-, -, hp⟩ | ⟨hh, hc, hp⟩ | ⟨-, -, hp⟩ | ⟨b, rest, -, -, hp⟩ := payloadByte_cases u <;> rw [hp]
    · exact ⟨_, rfl⟩
    · obtain ⟨hn, hcn⟩ := h.payload_inv.2.1 hh
      exact absurd (BitVec.eq_of_toNat_eq (by omega)) hne
    · exact ⟨_, rfl⟩
    · exact ⟨_, rfl⟩

theorem MovedPast.microReadback {n : Word} {u : State} (h : MovedPast (.micro (.readback n)) u) :
    (microReadback n u).Sequenced := by
  have hseq := h.seq
  simp only [wellSequenced, Bool.and_eq_true] at hseq
  obtain ⟨hx, hl⟩ := hseq
  unfold Machine.microReadback
  split
  · exact h.next rfl rfl (wellSequenced_some hl _)
  · exact h.readOne fun b rest => h.goOn rfl rfl (fun _ _ => rfl) (by simp [wellSequenced, hx, hl])

/-- What the sequencer requires of a statement of an exchange that keeps CNT and SESS. -/
theorem MovedPast.rest_of_exchange {m : Micro} {u : State} (h : MovedPast (.micro m) u)
    (hm : wellSequenced u.hsActive (some u.cnt) u.sess (.micro m :: u.prog)
      = (u.sess.exchanging && wellSequenced u.hsActive (some u.cnt) u.sess u.prog)) :
    wellSequenced u.hsActive (some u.cnt) u.sess u.prog = true := by
  have hseq := hm.symm.trans h.seq
  exact (Bool.and_eq_true_iff.1 hseq).2

/-- What the sequencer requires of a statement of the HEXRUN loop. -/
theorem MovedPast.hex_inv {m : Micro} {u : State} (h : MovedPast (.micro m) u)
    (hm : wellSequenced u.hsActive (some u.cnt) u.sess (.micro m :: u.prog)
      = (u.hsActive && u.sess.resting && wellSequenced u.hsActive (some u.cnt) u.sess u.prog)) :
    u.hsActive = true ∧ u.sess.resting = true ∧ wellSequenced u.hsActive (some u.cnt) u.sess u.prog = true := by
  have hseq := hm.symm.trans h.seq
  simp only [Bool.and_eq_true] at hseq
  obtain ⟨⟨hh, hx⟩, hl⟩ := hseq
  exact ⟨hh, hx, hl⟩

theorem MovedPast.microHandRb {b : Byte} {u : State} (h : MovedPast (.micro (.handRb b)) u) :
    (microHandRb b u).Sequenced := by
  unfold Machine.microHandRb
  split
  · exact h.next rfl rfl (h.rest_of_exchange rfl)
  · exact h.hold

theorem MovedPast.microExpectPair {u : State} (h : MovedPast (.micro .expectPair) u) :
    (microExpectPair u).Sequenced := by
  unfold Machine.microExpectPair
  split <;> exact h.expect _ _ (h.rest_of_exchange rfl)

theorem MovedPast.microConnectTop {u : State} (h : MovedPast (.micro .connectTop) u) :
    (microConnectTop u).Sequenced := by
  have hseq := h.seq
  simp only [wellSequenced, Bool.and_eq_true, Bool.not_eq_true', beq_iff_eq] at hseq
  obtain ⟨hh, hx⟩ := hseq
  unfold Machine.microConnectTop
  split
  · exact complete_sequenced .cancelled (u := setSess .disconnected u) h.busy hh rfl
  · refine ⟨fun h' => by simp [hh] at h', fun hb => by simp [h.busy] at hb, fun _ => ?_, fun _ => rfl⟩
    simp [responseTest, wellSequenced, seqInstrOk, hh, hx, Sess.exchanging, ofExchange, loadFits, sessEdge,
      Sess.resting]

theorem MovedPast.microNextChar {u : State} (h : MovedPast (.micro .nextChar) u) : (microNextChar u).Sequenced := by
  obtain ⟨hh, hx, hl⟩ := h.hex_inv rfl
  unfold Machine.microNextChar
  split
  · exact h.hold
  · split
    · exact h.next rfl rfl hl
    · exact h.goOn rfl rfl (fun _ _ => rfl) (by simpa [wellSequenced, hh, hx, storeLineChar] using hl)
  · split
    · exact raise_sequenced h.busy (.inr hx)
    · exact h.next rfl rfl hl

theorem MovedPast.microEofTest {u : State} (h : MovedPast (.micro .eofTest) u) : (microEofTest u).Sequenced := by
  obtain ⟨-, hx, hl⟩ := h.hex_inv rfl
  unfold Machine.microEofTest
  split
  · exact complete_sequenced .ok (u := releaseHex u) h.busy rfl hx
  · exact h.next rfl rfl hl

/-- R130: HEXRUN's loop is in order in every session a request is judged in. -/
theorem wellSequenced_hexLoop {c : Option Word} {x : Sess} (hx : x.resting = true) :
    wellSequenced true c x hexLoop = true := by
  simp [hexLoop, wellSequenced, hx]

theorem MovedPast.microYield {u : State} (h : MovedPast (.micro .yield) u) : (microYield u).Sequenced := by
  have hseq := h.seq
  simp only [wellSequenced, Bool.and_eq_true] at hseq
  obtain ⟨hh, hx⟩ := hseq
  unfold Machine.microYield
  split
  · refine ⟨fun _ => ⟨h.busy, h.hex hh⟩, fun hb => by simp [h.busy] at hb, fun _ => ?_, fun _ => rfl⟩
    simpa [hh] using wellSequenced_hexLoop hx
  · exact h.hold

/-- A statement of the sequencer keeps the operation in order. -/
theorem MovedPast.execMicro {m : Micro} {u t : State} (h : MovedPast (.micro m) u) (he : execMicro m u = .next t) :
    t.Sequenced := by
  cases m with
  | send b => cases he; exact h.send b (h.next rfl rfl (h.rest_of_exchange rfl))
  | sleep => cases he; exact h.next rfl rfl h.seq
  | window => cases he; exact h.next rfl rfl h.seq
  | poll mandatory => cases he; exact h.microPoll
  | cntZero => cases he; exact h.next rfl rfl h.seq
  | payload n => exact h.microPayload he
  | sendPay b =>
    cases he
    have hseq := h.seq
    simp only [wellSequenced, Bool.and_eq_true] at hseq
    exact h.send b (h.next rfl rfl hseq.2)
  | readback n => cases he; exact h.microReadback
  | handRb b => cases he; exact h.microHandRb
  | readLf => cases he; exact h.readOne fun b rest => h.next rfl rfl (h.rest_of_exchange rfl)
  | readPrompt => cases he; exact h.readOne fun b rest => h.next rfl rfl (h.rest_of_exchange rfl)
  | expectPair => cases he; exact h.microExpectPair
  | tpOpen rate => cases he; exact h.tpRequest _ h.seq
  | tpClose => cases he; exact h.tpRequest _ h.seq
  | setBaud rate => cases he; exact h.next rfl rfl h.seq
  | clearLast => cases he; exact h.next rfl rfl h.seq
  | setSess x =>
    cases he
    have hseq := h.seq
    simp only [wellSequenced, Bool.and_eq_true] at hseq
    exact h.next rfl rfl hseq.2
  | connectTop => cases he; exact h.microConnectTop
  | completeOk =>
    cases he
    have hseq := h.seq
    simp only [wellSequenced, Bool.and_eq_true, Bool.not_eq_true'] at hseq
    exact complete_sequenced .ok h.busy hseq.1 hseq.2
  | report =>
    cases he
    have hseq := h.seq
    simp only [wellSequenced, Bool.and_eq_true, Bool.not_eq_true'] at hseq
    exact offerReport_sequenced h.busy hseq.1 hseq.2
  | lineStart => cases he; exact h.next rfl rfl (h.hex_inv rfl).2.2
  | nextChar => cases he; exact h.microNextChar
  | eofTest => cases he; exact h.microEofTest
  | yield => cases he; exact h.microYield

theorem MovedPast.execStmt {st : Stmt} {u t : State} (h : MovedPast st u) (he : execStmt st u = .next t) :
    t.Sequenced := by
  cases st with
  | run i => exact h.exec he
  | decodeLine => exact h.execHexrec he
  | act => exact h.act he
  | micro m => exact h.execMicro he

/-! ## The host operations -/

/-- An operation taken from the host port while HS_ACTIVE is 0 runs in order, or is refused in a resting session. -/
theorem hostOperation_sequenced (op : HostOp) {latch run : State → State} {u : State} (hh : u.hsActive = false)
    (hx : u.sess.resting = true) (hl : ∀ v, (latch v).busy = v.busy ∧ (latch v).hsActive = v.hsActive
      ∧ (latch v).sess = v.sess)
    (hrun : admits op u.sess = true → (run (latch (latchOp op.code u))).Sequenced) :
    (hostOperation op latch run u).Sequenced := by
  obtain ⟨hb', hh', hx'⟩ := hl (latchOp op.code u)
  obtain ⟨ha, he⟩ | ⟨-, he⟩ := hostOperation_cases op latch run u <;> rw [he]
  · exact hrun ha
  · exact complete_sequenced _ hb' (hh'.trans hh) (hx' ▸ hx)

/-- An operation's statements, just given to the sequencer. -/
theorem jump_sequenced {l : List Stmt} {x : Sess} {u : State} (hb : u.busy = true) (hh : u.hsActive = false)
    (hx : u.sess = x) (hs : wellSequenced false (some u.cnt) x l = true)
    (ho : l.all (ownStmt u.opCur u.p0) = true) : (jump l u).Sequenced where
  hex h := by rw [jump_hsActive, hh] at h; cases h
  rest h := by rw [jump_busy, hb] at h; cases h
  seq _ := by rw [jump_hsActive, hh, jump_sess, hx]; exact hs
  own _ := ho

theorem ownStmt_tpOpen (op : Nibble) (p0 rate : Word) :
    ownStmt op p0 (.micro (.tpOpen rate)) = ((op == 0x0#4 || op == 0x5#4) && rate == p0) := rfl

/-- R171: open, from Closed to Disconnected. -/
theorem execHostOpen_sequenced {rate : Word} {u t : State} (hh : u.hsActive = false) (hx : u.sess.resting = true)
    (he : execHostOpen rate u = .next t) : t.Sequenced := by
  cases he
  refine hostOperation_sequenced .open_ hh hx (fun _ => ⟨rfl, rfl, rfl⟩) fun ha => ?_
  have hclosed : u.sess = .closed := by simpa [admits] using ha
  refine jump_sequenced rfl hh hclosed rfl ?_
  simp only [List.all_cons, ownStmt_tpOpen, ownStmt_setBaud, loadP0_p0, beq_self_eq_true, Bool.and_true]
  rfl

/-- R172: close, from Disconnected, Idle or Running to Closed. -/
theorem execHostClose_sequenced {u t : State} (hh : u.hsActive = false) (hx : u.sess.resting = true)
    (he : execHostClose u = .next t) : t.Sequenced := by
  cases he
  refine hostOperation_sequenced .close hh hx (fun _ => ⟨rfl, rfl, rfl⟩) fun ha => ?_
  simp only [admits, Bool.or_eq_true, beq_iff_eq] at ha
  obtain (hs | hs) | hs := ha <;> exact jump_sequenced rfl hh hs rfl rfl

/-- R176: cmd_baud, whose request to open TP and whose `BAUD_CUR <- rate` have its argument. -/
theorem execCmdBaud_sequenced {rate : Word} {u t : State} (hh : u.hsActive = false) (hx : u.sess.resting = true)
    (he : execCmdBaud rate u = .next t) : t.Sequenced := by
  cases he
  refine hostOperation_sequenced .baud hh hx (fun _ => ⟨rfl, rfl, rfl⟩) fun _ => ?_
  refine jump_sequenced rfl hh rfl rfl ?_
  simp only [List.all_cons, ownStmt_tpOpen, ownStmt_setBaud, setSess_p0, loadP0_p0, beq_self_eq_true, Bool.and_true]
  rfl

/-- R130: HEXRUN takes HS_ACTIVE and goes on in any resting session. -/
theorem execHexrun_sequenced {u t : State} (hh : u.hsActive = false) (hx : u.sess.resting = true)
    (he : execHexrun u = .next t) : t.Sequenced := by
  cases he
  refine hostOperation_sequenced .hexrun hh hx (fun _ => ⟨rfl, rfl, rfl⟩) fun _ => ?_
  exact ⟨fun _ => ⟨rfl, rfl⟩, fun h => (by cases h), fun _ => wellSequenced_hexLoop hx, fun _ => rfl⟩

/-- A host operation, admitted or refused, leaves the sequencer in order. -/
theorem exec_host_sequenced {i : Instr} {u t : State} (hi : i.space = .host) (hh : u.hsActive = false)
    (hx : u.sess.resting = true) (he : exec i u = .next t) : t.Sequenced := by
  have hidle {x : Sess} (ha : (x == .idle) = true) : x = .idle := by simpa using ha
  cases i with
  | hostOpen rate => exact execHostOpen_sequenced hh hx he
  | hostClose => exact execHostClose_sequenced hh hx he
  | hostConnect =>
    cases he
    exact hostOperation_sequenced .connect hh hx (fun _ => ⟨rfl, rfl, rfl⟩) fun _ => jump_sequenced rfl hh rfl rfl rfl
  | cmdSync =>
    cases he
    exact hostOperation_sequenced .sync hh hx (fun _ => ⟨rfl, rfl, rfl⟩) fun ha =>
      jump_sequenced rfl hh (hidle ha) rfl rfl
  | cmdCr =>
    cases he
    exact hostOperation_sequenced .cr hh hx (fun _ => ⟨rfl, rfl, rfl⟩) fun ha =>
      jump_sequenced rfl hh (hidle ha) rfl rfl
  | cmdBaud rate => exact execCmdBaud_sequenced hh hx he
  | cmdLoad address length =>
    cases he
    exact hostOperation_sequenced .load hh hx (fun _ => ⟨rfl, rfl, rfl⟩) fun _ => jump_sequenced rfl hh rfl rfl rfl
  | cmdVfy address size =>
    cases he
    exact hostOperation_sequenced .vfy hh hx (fun _ => ⟨rfl, rfl, rfl⟩) fun _ => jump_sequenced rfl hh rfl rfl rfl
  | cmdRun address =>
    cases he
    exact hostOperation_sequenced .run hh hx (fun _ => ⟨rfl, rfl, rfl⟩) fun ha =>
      jump_sequenced rfl hh (hidle ha) rfl rfl
  | hexrun => exact execHexrun_sequenced hh hx he
  | reservedHostOp code => cases he; exact complete_sequenced _ (u := latchOp code u) rfl hh hx
  | _ => cases hi

/-! ## Every step -/

/-- `Sequenced` does not speak of the ports. -/
theorem State.Sequenced.withEnv {s : State} (h : s.Sequenced) (env : Env) : State.Sequenced { s with env := env } :=
  ⟨h.hex, h.rest, h.seq, h.own⟩

/-- The invariant holds whatever the reset input finds. -/
theorem resetMuf_inv (s : State) : (resetMuf s).Inv where
  recPay := rfl
  abase := BitVec.extractLsb'_zero
  lineBuf := Nat.zero_le _
  hex h := by cases h
  rest _ := ⟨rfl, rfl⟩
  seq h := by cases h
  own h := by cases h
  lastCmd h := by cases h
  winCnt := Nat.zero_le _

/-- Settles O45: the machine starts as the reset input leaves it. -/
theorem invHoldsAtReset : Obligations.InvHoldsAtReset := by
  unfold Obligations.InvHoldsAtReset
  rw [← resetMuf_reset]
  exact resetMuf_inv State.reset

/-- A step other than reset keeps the operation in flight in order. -/
theorem step_sequenced {s t : State} (hinv : s.Inv) (hreset : ∀ rest, s.env.script ≠ .env .reset :: rest)
    (h : step s = .next t) : t.Sequenced := by
  have hseq := ((inv_iff s).1 hinv).2
  cases stepCase s with
  | env a script hs hr =>
    cases hr.symm.trans h
    rw [envStep_ports fun ha => hreset script (ha ▸ hs)]
    exact hseq.withEnv _
  | idle script hb hr => cases hr.symm.trans h; exact hseq.withEnv _
  | request script q rest hb hq hr =>
    have hh : s.hsActive = false := by
      cases hh : s.hsActive with
      | false => rfl
      | true => rw [(hinv.hex hh).1] at hb; cases hb
    exact exec_host_sequenced (decodeHost_space _ _ _) (u := takeRequest q rest (s.turn script)) hh
      (hinv.rest hb).2 (hr.symm.trans h)
  | stmt script st rest hb hp hr => exact (hinv.movedPast hb hp script).execStmt (hr.symm.trans h)
  | noStatement hb hp hr => cases hr.symm.trans h

/-- Settles O46: the registers by `step_effect`, the operation in flight statement by statement. -/
theorem everyStepKeepsInv : Obligations.EveryStepKeepsInv := by
  intro s t hinv h
  by_cases hreset : ∃ script, s.env.script = .env .reset :: script
  · obtain ⟨script, hs⟩ := hreset
    have hf : fetch s = .env .reset (s.turn script) := by simp [fetch, hs, State.turn]
    cases (step_env hf).symm.trans h
    exact resetMuf_inv _
  · have hreset' : ∀ rest, s.env.script ≠ .env .reset :: rest := fun rest hs => hreset ⟨rest, hs⟩
    have hwf := (step_effect hinv hreset' h).regs_wf ((inv_iff s).1 hinv).1
    exact (inv_iff t).2 ⟨hwf, step_sequenced hinv hreset' h⟩

/-! ## No step stops -/

/-- Every instruction answers a next state. -/
theorem exec_answers (i : Instr) (s : State) : ∃ t, exec i s = .next t := by
  cases i with
  | hexrec line => simp only [exec, execHexrec]; split <;> exact ⟨_, rfl⟩
  | hexExtendedLinearAddress offset payload =>
    simp only [exec, execHexExtendedLinearAddress]; split <;> exact ⟨_, rfl⟩
  | hexStartLinearAddress offset payload =>
    simp only [exec, execHexStartLinearAddress]; split <;> exact ⟨_, rfl⟩
  | _ => exact ⟨_, rfl⟩

/-- Every statement of an operation that is in order answers a next state. -/
theorem MovedPast.answers {st : Stmt} {u : State} (h : MovedPast st u) : ∃ t, Machine.execStmt st u = .next t := by
  cases st with
  | run i => exact exec_answers i u
  | decodeLine => exact exec_answers (.hexrec (bufferedLine u.lineBuf u.lineOvf)) u
  | act => exact exec_answers (recordInstrOf u) u
  | micro m =>
    cases m with
    | payload n => exact h.microPayload_answers
    | _ => exact ⟨_, rfl⟩

/-- Settles O47: the invariant rules out both faults, BUSY without a statement and a count beyond REC_PAY. -/
theorem invStatesNeverStop : Obligations.InvStatesNeverStop := by
  intro s hinv
  cases stepCase s with
  | env a script hs hr => exact ⟨_, hr⟩
  | idle script hb hr => exact ⟨_, hr⟩
  | request script q rest hb hq hr => rw [hr]; exact exec_answers _ _
  | stmt script st rest hb hp hr => rw [hr]; exact (hinv.movedPast hb hp script).answers
  | noStatement hb hp hr =>
    have hseq := hinv.seq hb
    rw [hp] at hseq
    cases hseq

end Sys2Proof.Machine
end

/-!
# Runs of the sequencer

`Runs l s t`: in a state with nothing to wait for, whatever statements follow them, the statements `l` lead from `s` to
`t`.  Each statement and each exchange has one such rule, and a host operation's run is put together from them.
-/
section

namespace Sys2Proof.Machine

/-! ## Reaching a state -/

/-- A run whose first step answers `u` goes on from `u`. -/
theorem run_of_step (M : Host.Core) {s u : M.State} (h : M.step s = .next u) (k : Nat) :
    M.run (k + 1) s = M.run k u := by
  simp [Host.Core.run, h]

/-- A run that ends in a next state has a first step. -/
theorem step_of_run (M : Host.Core) {s t : M.State} {k : Nat} (h : M.run (k + 1) s = .next t) :
    ∃ u, M.step s = .next u ∧ M.run k u = .next t := by
  rw [Host.Core.run] at h
  split at h
  · next u hu => exact ⟨u, hu, h⟩
  · cases h
  · cases h

theorem Reaches.refl (s : State) : Reaches s s := ⟨0, rfl⟩

theorem Reaches.of_step {s u t : State} (h : step s = .next u) (hr : Reaches u t) : Reaches s t := by
  obtain ⟨k, hk⟩ := hr
  exact ⟨k + 1, (run_of_step core h k).trans hk⟩

theorem Reaches.trans {s u t : State} (h : Reaches s u) (hr : Reaches u t) : Reaches s t := by
  obtain ⟨k, hk⟩ := h
  induction k generalizing s with
  | zero => cases hk; exact hr
  | succ k ih =>
    obtain ⟨v, hv, hk⟩ := step_of_run core hk
    exact .of_step hv (ih hk)

/-! ## Statements in a row -/

/-- MUF has every turn, TP and the host take what it hands over, and an operation is in flight. -/
def State.Running (s : State) : Prop := s.attended ∧ s.busy = true

theorem State.Running.txReady {s : State} (h : s.Running) : s.env.txReady = true := h.1.2.1

theorem State.Running.doneReady {s : State} (h : s.Running) : s.env.doneReady = true := h.1.2.2.2.2

/-- The statements `l`, before any others, lead from `s` to `t`, where again there is nothing to wait for. -/
def Runs (l : List Stmt) (s t : State) : Prop :=
  s.Running → t.Running ∧ ∀ rest, Reaches (jump (l ++ rest) s) (jump rest t)

theorem Runs.nil (s : State) : Runs [] s s := fun hs => ⟨hs, fun _ => .refl _⟩

theorem Runs.append {l m : List Stmt} {s u t : State} (h : Runs l s u) (k : Runs m u t) : Runs (l ++ m) s t :=
  fun hs => by
    obtain ⟨hu, hsu⟩ := h hs
    obtain ⟨ht, hut⟩ := k hu
    refine ⟨ht, fun rest => ?_⟩
    rw [List.append_assoc]
    exact (hsu (m ++ rest)).trans (hut rest)

theorem Runs.cons {st : Stmt} {m : List Stmt} {s u t : State} (h : Runs [st] s u) (k : Runs m u t) :
    Runs (st :: m) s t :=
  Runs.append h k

/-- A statement whose step leaves the statements `l` to run first. -/
theorem Runs.of_exec {st : Stmt} {l : List Stmt} {s u t : State} (hu : s.Running → u.Running)
    (he : s.Running → ∀ rest, execStmt st (jump rest s) = .next (jump (l ++ rest) u)) (hr : Runs l u t) :
    Runs [st] s t := fun hs => by
  obtain ⟨ht, hut⟩ := hr (hu hs)
  refine ⟨ht, fun rest => .of_step ?_ (hut rest)⟩
  exact (step_of_prog (s := jump (st :: rest) s) hs.1.1 hs.2 rfl).trans (he hs rest)

/-- A statement that one step completes. -/
theorem Runs.of_exec_one {st : Stmt} {s t : State} (ht : s.Running → t.Running)
    (he : s.Running → ∀ rest, execStmt st (jump rest s) = .next (jump rest t)) : Runs [st] s t :=
  .of_exec (l := []) ht he (.nil t)

/-! ## The statements -/

/-- Handed to TP, in order. -/
def emits (os : List TpOut) (s : State) : State := { s with out := { s.out with tp := s.out.tp ++ os } }

/-- A response-test has taken `b` and left `more` waiting (R155). -/
def answered (b : Byte) (more : List Byte) (s : State) : State :=
  { s with winCnt := 0, rtByte := b, env := { s.env with rx := more } }

/-- TP has acknowledged a request; `acks` are still to come, and its queue holds `queue` (R159). -/
def acknowledged (queue : List Byte) (acks : List (List Byte)) (s : State) : State :=
  { s with env := { s.env with tpAcks := acks, rx := queue } }

theorem emits_append (os os' : List TpOut) (s : State) : emits os' (emits os s) = emits (os ++ os') s := by
  simp only [emits, List.append_assoc]

theorem emits_nil (s : State) : emits [] s = s := by
  simp only [emits, List.append_nil]

theorem send_of_txReady {s : State} (h : s.env.txReady = true) (b : Byte) (self : Stmt) (k : State → State) :
    send b self k s = k (emit (.tx b) s) := by
  simp [send, h]

theorem readOne_of_byte {s : State} {b : Byte} {more : List Byte} (h : s.env.rx = b :: more) (self : Stmt)
    (k : Byte → State → State) : readOne self k s = k b { s with env := { s.env with rx := more } } := by
  simp [readOne, readByte, h]

/-- A request TP has acknowledged (R159). -/
theorem tpRequest_of_ack {s : State} {queue : List Byte} {acks : List (List Byte)}
    (h : s.env.tpAcks = queue :: acks) (o : TpOut) (self : Stmt) :
    tpRequest o self s = emits [o] (acknowledged queue acks s) := by
  simp only [tpRequest, h]
  rfl

/-- A comparison that holds lets the sequencer go on (R157). -/
theorem expect_self (e : Byte) (s : State) : expect e e s = s := by
  simp [expect]

theorem runs_send (b : Byte) (s : State) : Runs [.micro (.send b)] s (emits [.tx b] s) :=
  .of_exec_one id fun hs rest => congrArg _ (send_of_txReady (s := jump rest s) hs.txReady b _ _)

/-- R151: bytes sent one after the other. -/
theorem runs_sends (bs : List Byte) (s : State) :
    Runs (bs.map fun b => .micro (.send b)) s (emits (txAll bs) s) := by
  induction bs generalizing s with
  | nil => rw [show txAll [] = [] from rfl, emits_nil]; exact .nil s
  | cons b bs ih =>
    have hrest := ih (emits [.tx b] s)
    rw [emits_append] at hrest
    exact (runs_send b s).cons hrest

theorem runs_sendU32 (v : Word) (s : State) : Runs (sendU32 v) s (emits (txAll (le32 v)) s) :=
  runs_sends (le32 v) s

/-- R155: a response-test with a byte waiting that is not ERR_IND. -/
theorem runs_responseTest {s : State} (mandatory : Bool) {b : Byte} {more : List Byte}
    (hrx : s.env.rx = b :: more) (hb : b ≠ Config.errInd) : Runs (responseTest mandatory) s (answered b more s) := by
  have hsleep : Runs [.micro .sleep] s { s with winCnt := Config.winTicks } := .of_exec_one id fun _ _ => rfl
  have hwindow : Runs [.micro .window] { s with winCnt := Config.winTicks } { s with winCnt := 0 } :=
    .of_exec_one id fun _ _ => rfl
  have hpoll : Runs [.micro (.poll mandatory)] { s with winCnt := 0 } (answered b more s) :=
    .of_exec_one id fun _ rest => by simp [execMicro, microPoll, hrx, hb, jump, answered]
  exact hsleep.cons (hwindow.cons hpoll)

theorem runs_tpClose {s : State} {queue : List Byte} {acks : List (List Byte)} (h : s.env.tpAcks = queue :: acks) :
    Runs [.micro .tpClose] s (emits [.closeReq] (acknowledged queue acks s)) :=
  .of_exec_one id fun _ rest => congrArg _ (tpRequest_of_ack (s := jump rest s) h _ _)

theorem runs_tpOpen {s : State} (rate : Word) {queue : List Byte} {acks : List (List Byte)}
    (h : s.env.tpAcks = queue :: acks) :
    Runs [.micro (.tpOpen rate)] s (emits [.openReq rate Config.lineFormat] (acknowledged queue acks s)) :=
  .of_exec_one id fun _ rest => congrArg _ (tpRequest_of_ack (s := jump rest s) h _ _)

theorem runs_setBaud (rate : Word) (s : State) : Runs [.micro (.setBaud rate)] s (microSetBaud rate s) :=
  .of_exec_one id fun _ _ => rfl

theorem runs_setSess (x : Sess) (s : State) : Runs [.micro (.setSess x)] s (setSess x s) :=
  .of_exec_one id fun _ _ => rfl

/-- TP has been closed and opened again at `rate`; its queue holds `queue`, and `acks` are still to come. -/
def reopened (rate : Word) (queue : List Byte) (acks : List (List Byte)) (s : State) : State :=
  { acknowledged queue acks (emits [.closeReq, .openReq rate Config.lineFormat] s) with baudCur := rate }

/-- R159, R176: close and reopen TP at the new rate; what its queue held between the two is gone. -/
theorem runs_reopen {s : State} (rate : Word) {between queue : List Byte} {acks : List (List Byte)}
    (h : s.env.tpAcks = between :: queue :: acks) :
    Runs [.micro .tpClose, .micro (.tpOpen rate), .micro (.setBaud rate)] s (reopened rate queue acks s) := by
  have hclose := runs_tpClose h
  have hopen := hclose.append (runs_tpOpen rate (queue := queue) (acks := acks) rfl)
  have hbaud := hopen.append (runs_setBaud rate _)
  have hend : microSetBaud rate (emits [.openReq rate Config.lineFormat] (acknowledged queue acks
      (emits [.closeReq] (acknowledged between (queue :: acks) s)))) = reopened rate queue acks s := by
    simp [microSetBaud, emits, acknowledged, reopened]
  exact hend ▸ hbaud

/-! ## The exchanges -/

/-- A wire opcode: its byte is sent and recorded, then its exchange runs (R158). -/
theorem runs_sendOpcode {s t : State} (i : Instr) (op : Byte) (tail : List Stmt)
    (hi : ∀ u, exec i u = .next (sendOpcode op i tail u)) (ht : Runs tail (emits [.tx op] (recordCmd op s)) t) :
    Runs [.run i] s t := by
  refine .of_exec (u := emits [.tx op] (recordCmd op s)) id (fun hs rest => (hi _).trans (congrArg _ ?_)) ht
  exact send_of_txReady (s := jump rest s) hs.txReady op _ _

/-- An earlier response-test leaves nothing that a later one keeps. -/
theorem answered_emits_answered (x y : Byte) (more more' : List Byte) (os os' : List TpOut) (s : State) :
    answered y more' (emits os' (answered x more (emits os s))) = answered y more' (emits (os ++ os') s) := by
  simp only [answered, emits, List.append_assoc]

/-- A compared response that is the expected one (R90, R157). -/
theorem runs_ackEchoBaud {s : State} (h : s.rtByte = Config.opBaud) : Runs [.run .ackEchoBaud] s s :=
  .of_exec_one id fun _ rest => congrArg Host.Outcome.next (by rw [jump_rtByte, h, expect_self])

/-- R158, R176: one BAUD exchange whose second response is the echo. -/
theorem runs_opBaud {s : State} (rate : Word) {x : Byte} {more : List Byte}
    (hrx : s.env.rx = x :: Config.opBaud :: more) (hx : x ≠ Config.errInd) :
    Runs [.run (.opBaud rate)] s
      (answered Config.opBaud more (emits (txAll (Config.opBaud :: le32 rate)) (recordCmd Config.opBaud s))) := by
  have hfirst : Runs (responseTest true) (emits [.tx Config.opBaud] (recordCmd Config.opBaud s)) _ :=
    runs_responseTest true hrx hx
  have hrate := hfirst.append (runs_sendU32 rate _)
  have hsecond := hrate.append (runs_responseTest true (b := Config.opBaud) (more := more) rfl (by decide))
  have hecho := hsecond.append (runs_ackEchoBaud rfl)
  rw [answered_emits_answered] at hecho
  exact runs_sendOpcode (.opBaud rate) Config.opBaud
    (responseTest true ++ sendU32 rate ++ responseTest true ++ [.run .ackEchoBaud]) (fun _ => rfl) hecho

/-- The two bytes of CrTail have been read, and `more` is waiting (R161). -/
def crRead (more : List Byte) (s : State) : State :=
  { s with rd2Lf := Config.chLf, rd2Prompt := Config.chPrompt, env := { s.env with rx := more } }

/-- R161: CrTail reads and compares its two bytes. -/
theorem runs_crSequence {s : State} {more : List Byte} (hcr : s.rtByte = Config.opCr)
    (hrx : s.env.rx = Config.chLf :: Config.chPrompt :: more) : Runs [.run .crSequence] s (crRead more s) := by
  have hlf : Runs [.micro .readLf] s
      { s with rd2Lf := Config.chLf, env := { s.env with rx := Config.chPrompt :: more } } :=
    .of_exec_one id fun _ rest => congrArg _ (readOne_of_byte (s := jump rest s) hrx _ _)
  have hprompt : Runs [.micro .readPrompt]
      { s with rd2Lf := Config.chLf, env := { s.env with rx := Config.chPrompt :: more } } (crRead more s) :=
    .of_exec_one id fun _ rest => congrArg _ (readOne_of_byte (b := Config.chPrompt) (more := more) rfl _ _)
  have hpair : Runs [.micro .expectPair] (crRead more s) (crRead more s) :=
    .of_exec_one id fun _ rest => congrArg _ ((if_pos rfl).trans (expect_self _ _))
  refine .of_exec (l := [.micro .readLf, .micro .readPrompt, .micro .expectPair]) id (fun _ rest => ?_)
    (hlf.cons (hprompt.cons hpair))
  exact congrArg _ (if_pos hcr)

/-- R175: the carriage return, a response-test, the CR sequence. -/
theorem runs_opCr {s : State} {more : List Byte}
    (hrx : s.env.rx = Config.opCr :: Config.chLf :: Config.chPrompt :: more) :
    Runs [.run .opCr] s
      (crRead more
        (answered Config.opCr (Config.chLf :: Config.chPrompt :: more)
          (emits [.tx Config.opCr] (recordCmd Config.opCr s)))) := by
  have htest : Runs (responseTest true) (emits [.tx Config.opCr] (recordCmd Config.opCr s)) _ :=
    runs_responseTest true hrx (by decide)
  exact runs_sendOpcode .opCr Config.opCr (responseTest true ++ [.run .crSequence]) (fun _ => rfl)
    (htest.append (runs_crSequence rfl rfl))

/-! ## Completion -/

/-- R209: `complete(OK)`, its report taken by the host. -/
theorem reaches_completeOk {s : State} (hs : s.Running) :
    Reaches (jump [.micro .completeOk] s) (State.reported s (okReport s.opCur)) := by
  have hcomplete : complete .ok (jump [] s) = State.reported s (okReport s.opCur) := by
    obtain ⟨-, h⟩ | ⟨hd, -⟩ := complete_cases .ok (jump [] s)
    · exact h
    · rw [jump_env, hs.doneReady] at hd; cases hd
  have hstep : step (jump [.micro .completeOk] s) = .next (complete .ok (jump [] s)) :=
    step_of_prog (s := jump [.micro .completeOk] s) hs.1.1 hs.2 rfl
  exact .of_step hstep (hcomplete ▸ .refl _)

/-- An operation whose statements run through completes with OK. -/
theorem Runs.completes {l : List Stmt} {s t : State} (h : Runs l s t) (hs : s.Running) :
    Reaches (jump (l ++ [.micro .completeOk]) s) (State.reported t (okReport t.opCur)) := by
  obtain ⟨ht, hrun⟩ := h hs
  exact (hrun [.micro .completeOk]).trans (reaches_completeOk ht)

/-! ## cmd_baud -/

/-- R176: the statements of cmd_baud up to `complete(OK)`. -/
def baudBody (rate : Word) : List Stmt :=
  [.run (.opBaud rate), .micro .tpClose, .micro (.tpOpen rate), .micro (.setBaud rate), .run (.opBaud rate),
    .run .opCr, .micro (.setSess .idle)]

/-- An Idle session admits cmd_baud (R170). -/
theorem exec_cmdBaud {s : State} (h : s.sess = .idle) (rate : Word) :
    exec (.cmdBaud rate) s
      = .next (jump (baudBody rate ++ [.micro .completeOk])
          (setSess .settingBaud (loadP0 rate (latchOp 0x5#4 s)))) := by
  obtain ⟨-, he⟩ | ⟨ha, -⟩ := hostOperation_cases .baud (loadP0 rate)
    (fun t => jump (baudBody rate ++ [.micro .completeOk]) (setSess .settingBaud t)) s
  · exact congrArg _ he
  · simp [admits, h] at ha

/-- Settles O35: the exchange, the reopen, the exchange again, the CR exchange, each by its rule. -/
theorem cmdBaudCompletes : Obligations.CmdBaudCompletes := by
  intro s rate x y stale between more acks hatt hidle hrx hx hy hacks
  refine ⟨_, exec_cmdBaud hidle rate, ?_⟩
  have hfirst : Runs [.run (.opBaud rate)] (setSess .settingBaud (loadP0 rate (latchOp 0x5#4 s))) _ :=
    runs_opBaud rate hrx hx
  have hreopen := hfirst.append (runs_reopen rate hacks)
  have hsecond := hreopen.append
    (runs_opBaud rate (more := Config.opCr :: Config.chLf :: Config.chPrompt :: more) rfl hy)
  have hcr := hsecond.append (runs_opCr (more := more) rfl)
  have hbody : Runs (baudBody rate) _ _ := hcr.append (runs_setSess .idle _)
  convert hbody.completes ⟨hatt, rfl⟩ using 1
  simp [State.reported, crRead, answered, emits, acknowledged, reopened, recordCmd, setSess, loadP0, latchOp, txAll,
    hidle]

end Sys2Proof.Machine
end

/-!
# What MUF takes from its inputs

Of the instructions only ERR_RESPONSE reaches the environment's side of the ports (`exec_env`); what each statement of
the sequencer takes there is `execStmt_takes`, and what a turn of MUF takes is `step_takes`.
-/
section

namespace Sys2Proof.Machine

/-! ## The shared operations -/

@[simp] theorem offerReport_env (s : State) : (offerReport s).env = s.env := by
  obtain ⟨-, h⟩ | ⟨-, h⟩ := offerReport_cases s <;> rw [h]
  · exact takeReport_env s
  · exact jump_env s _

@[simp] theorem complete_env (st : Status) (s : State) : (complete st s).env = s.env :=
  offerReport_env (writeStatus st s)

@[simp] theorem raise_env (e : Err) (s : State) : (raise e s).env = s.env :=
  complete_env (.error e) (releaseHex (demote e (setFault s)))

@[simp] theorem expect_env (e a : Byte) (s : State) : (expect e a s).env = s.env := by
  obtain ⟨-, h⟩ | ⟨-, h⟩ := expect_cases e a s <;> rw [h]
  exact raise_env _ s

theorem send_env (b : Byte) (self : Stmt) {k : State → State} (hk : ∀ u, (k u).env = u.env) (s : State) :
    (send b self k s).env = s.env := by
  obtain ⟨-, h⟩ | ⟨-, h⟩ := send_cases b self k s <;> rw [h]
  · exact hk _
  · exact hold_env s _

@[simp] theorem sendOpcode_env (op : Byte) (self : Instr) (tail : List Stmt) (s : State) :
    (sendOpcode op self tail s).env = s.env :=
  send_env op (.run self) (fun _ => by rfl) s

theorem hostOperation_env (op : HostOp) {latch run : State → State} (hl : ∀ u, (latch u).env = u.env)
    (hr : ∀ u, (run u).env = u.env) (s : State) : (hostOperation op latch run s).env = s.env := by
  obtain ⟨-, h⟩ | ⟨-, h⟩ := hostOperation_cases op latch run s <;> rw [h]
  · exact (hr _).trans (hl _)
  · exact (complete_env _ _).trans (hl _)

theorem wiredOperation_env (op : HostOp) {run : State → State} (hr : ∀ u, (run u).env = u.env) (s : State) :
    (wiredOperation op run s).env = s.env := by
  obtain ⟨-, h⟩ | ⟨-, h⟩ := wiredOperation_cases op run s <;> rw [h]
  · exact hr s
  · exact complete_env _ (releaseHex s)

/-! ## The instructions -/

theorem execCrSequence_env {s t : State} (h : execCrSequence s = .next t) : t.env = s.env := by
  unfold execCrSequence at h
  split at h <;> cases h
  · exact push_env s _
  · exact expect_env _ _ s

theorem execHexrec_env {line : List Byte} {s t : State} (h : execHexrec line s = .next t) : t.env = s.env := by
  unfold execHexrec at h
  split at h <;> cases h
  · exact writeRecord_env _ _
  · exact raise_env _ _

theorem execHexExtendedLinearAddress_env {offset : Half} {payload : List Byte} {s t : State}
    (h : execHexExtendedLinearAddress offset payload s = .next t) : t.env = s.env := by
  unfold execHexExtendedLinearAddress at h
  split at h <;> cases h
  · rfl
  · exact raise_env _ s

theorem execHexStartLinearAddress_env {offset : Half} {payload : List Byte} {s t : State}
    (h : execHexStartLinearAddress offset payload s = .next t) : t.env = s.env := by
  unfold execHexStartLinearAddress at h
  split at h <;> cases h
  · exact wiredOperation_env _ (fun _ => by rfl) s
  · exact raise_env _ s

/-- R60: of the instructions, only ERR_RESPONSE takes anything from the ports; what the others need of a byte stream
is read by the statements they leave to the sequencer. -/
theorem exec_env {i : Instr} (hi : i ≠ .errResponse) {s t : State} (h : exec i s = .next t) : t.env = s.env := by
  cases i with
  | errResponse => exact absurd rfl hi
  | opSync | opCr | opBaud | opLoad | opVfy | opRun => cases h; exact sendOpcode_env _ _ _ s
  | ackOk | ackEchoBaud => cases h; exact expect_env _ _ s
  | crSequence => exact execCrSequence_env h
  | vfyReadback => cases h; rfl
  | hexrec => exact execHexrec_env h
  | hexData => cases h; exact wiredOperation_env _ (fun _ => by rfl) s
  | hexEndOfFile | hexExtendedSegmentAddress | hexStartSegmentAddress | hexUnknown => cases h; rfl
  | hexExtendedLinearAddress offset => exact execHexExtendedLinearAddress_env (offset := offset) h
  | hexStartLinearAddress offset => exact execHexStartLinearAddress_env (offset := offset) h
  | hostOpen | hostClose | hostConnect | cmdSync | cmdCr | cmdBaud | cmdLoad | cmdVfy | cmdRun | hexrun =>
    cases h; exact hostOperation_env _ (fun _ => by rfl) (fun _ => by rfl) s
  | reservedHostOp code => cases h; exact complete_env _ (latchOp code s)

/-- ERR_RESPONSE is a response, so it comes neither from the host port nor from the record registers. -/
theorem ne_errResponse_of_space {i : Instr} (h : i.space = .host ∨ i.space = .record) : i ≠ .errResponse := by
  rintro rfl
  simp [Instr.space] at h

/-! ## The statements -/

/-- The statements that take a received byte (R153, R155, R161, R178). -/
def Stmt.readsRx : Stmt → Bool
  | .run .errResponse => true
  | .micro (.poll _) => true
  | .micro (.readback _) => true
  | .micro .readLf => true
  | .micro .readPrompt => true
  | _ => false

/-- What the statement `st` takes from the environment's side of the ports: nothing; the oldest received byte; TP's
timeout; an acknowledgement of TP, with the queue it leaves; the oldest payload byte; the oldest item of the HEX
input. -/
inductive Takes (st : Stmt) (e e' : Env) : Prop where
  | nothing (h : e' = e)
  | byte (b : Byte) (more : List Byte) (hst : st.readsRx = true) (hrx : e.rx = b :: more)
      (h : e' = { e with rx := more })
  | timeout (h : e' = { e with rxTmo := false })
  | ack (queue : List Byte) (acks : List (List Byte)) (hacks : e.tpAcks = queue :: acks)
      (h : e' = { e with tpAcks := acks, rx := queue })
  | payload (b : Byte) (rest : List Byte) (hpl : e.pl = b :: rest) (h : e' = { e with pl := rest })
  | hexItem (x : HexItem) (rest : List HexItem) (hst : st = .micro .nextChar) (hhx : e.hx = x :: rest)
      (h : e' = { e with hx := rest })

theorem readOne_takes {st : Stmt} (hst : st.readsRx = true) {k : Byte → State → State}
    (hk : ∀ b u, (k b u).env = u.env) (s : State) : Takes st s.env (readOne st k s).env := by
  obtain ⟨b, rest, hrx, h⟩ | ⟨-, -, -, h⟩ | ⟨-, -, h⟩ := readOne_cases st k s <;> rw [h]
  · exact .byte b rest hst hrx (hk b _)
  · exact .timeout (raise_env _ _)
  · exact .nothing (hold_env s st)

theorem tpRequest_takes (o : TpOut) (st : Stmt) (s : State) : Takes st s.env (tpRequest o st s).env := by
  obtain ⟨q, acks, hacks, h⟩ | ⟨-, h⟩ := tpRequest_cases o st s <;> rw [h]
  · exact .ack q acks hacks rfl
  · exact .nothing (hold_env s st)

/-- R155: the poll takes the oldest byte, or finds silence. -/
theorem microPoll_takes (mandatory : Bool) (s : State) :
    Takes (.micro (.poll mandatory)) s.env (microPoll mandatory s).env := by
  unfold microPoll
  split
  · split
    · exact .nothing (raise_env _ s)
    · exact .nothing (jump_env s _)
  · next b more hrx => split <;> exact .byte b more rfl hrx rfl

/-- R160: the next payload byte comes from REC_PAY or from the host. -/
theorem microPayload_takes {n : Word} {s t : State} (h : microPayload n s = .next t) :
    Takes (.micro (.payload n)) s.env t.env := by
  unfold microPayload at h
  split at h
  · cases h; exact .nothing rfl
  · obtain ⟨-, -, hp⟩ | ⟨-, -, hp⟩ | ⟨-, -, hp⟩ | ⟨b, rest, -, hpl, hp⟩ := payloadByte_cases s <;>
      rw [hp] at h <;> cases h
    · exact .nothing (push_env s _)
    · exact .nothing (hold_env s _)
    · exact .payload b rest hpl rfl

theorem microReadback_takes (n : Word) (s : State) :
    Takes (.micro (.readback n)) s.env (microReadback n s).env := by
  unfold microReadback
  split
  · exact .nothing rfl
  · exact readOne_takes (by rfl) (fun _ _ => by rfl) s

theorem microHandRb_env (b : Byte) (s : State) : (microHandRb b s).env = s.env := by
  unfold microHandRb
  split <;> rfl

theorem microExpectPair_env (s : State) : (microExpectPair s).env = s.env := by
  unfold microExpectPair
  split <;> exact expect_env _ _ s

theorem microConnectTop_env (s : State) : (microConnectTop s).env = s.env := by
  unfold microConnectTop
  split
  · exact complete_env _ (setSess .disconnected s)
  · exact jump_env s _

theorem microEofTest_env (s : State) : (microEofTest s).env = s.env := by
  unfold microEofTest
  split
  · exact complete_env _ (releaseHex s)
  · rfl

theorem microYield_env (s : State) : (microYield s).env = s.env := by
  unfold microYield
  split <;> rfl

/-- R131, R141: NextLine takes the next character, or the end of the input before any character; an end of the input
that ends a line is left where it is. -/
theorem microNextChar_takes (s : State) : Takes (.micro .nextChar) s.env (microNextChar s).env := by
  unfold microNextChar
  split
  · exact .nothing (hold_env s _)
  · next c rest hhx => split <;> exact .hexItem (.char c) rest rfl hhx rfl
  · next rest hhx =>
    split
    · exact .hexItem .eos rest rfl hhx (raise_env _ _)
    · exact .nothing rfl

theorem execMicro_takes {m : Micro} {s t : State} (h : execMicro m s = .next t) :
    Takes (.micro m) s.env t.env := by
  cases m with
  | send | sendPay => cases h; exact .nothing (send_env _ _ (fun _ => by rfl) s)
  | sleep | window | cntZero | setBaud | clearLast | setSess | lineStart => cases h; exact .nothing rfl
  | poll mandatory => cases h; exact microPoll_takes mandatory s
  | payload => exact microPayload_takes h
  | readback n => cases h; exact microReadback_takes n s
  | handRb b => cases h; exact .nothing (microHandRb_env b s)
  | readLf | readPrompt => cases h; exact readOne_takes (by rfl) (fun _ _ => by rfl) s
  | expectPair => cases h; exact .nothing (microExpectPair_env s)
  | tpOpen | tpClose => cases h; exact tpRequest_takes _ _ s
  | connectTop => cases h; exact .nothing (microConnectTop_env s)
  | completeOk => cases h; exact .nothing (complete_env _ s)
  | report => cases h; exact .nothing (offerReport_env s)
  | nextChar => cases h; exact microNextChar_takes s
  | eofTest => cases h; exact .nothing (microEofTest_env s)
  | yield => cases h; exact .nothing (microYield_env s)

theorem execStmt_takes {st : Stmt} {s t : State} (h : execStmt st s = .next t) : Takes st s.env t.env := by
  cases st with
  | run i =>
    by_cases hi : i = .errResponse
    · subst hi
      cases h
      exact readOne_takes (by rfl) (fun _ _ => raise_env _ _) s
    · exact .nothing (exec_env hi h)
  | decodeLine => exact .nothing (execHexrec_env h)
  | act => exact .nothing (exec_env (ne_errResponse_of_space (.inr (recordInstr_space _ _ _))) h)
  | micro m => exact execMicro_takes h

/-! ## A turn of MUF -/

/-- With the script at its end, a step takes at most a request while BUSY is 0, and else what the next statement of the
operation in flight takes. -/
theorem step_takes {s t : State} (hs : s.env.script = []) (h : step s = .next t) :
    (s.busy = false ∧ ∃ reqs, t.env = { s.env with reqs := reqs })
      ∨ ∃ st rest, s.busy = true ∧ s.prog = st :: rest ∧ Takes st s.env t.env := by
  have hf : fetch s = fetchMuf s := by simp [fetch, hs]
  obtain ⟨-, -, hm⟩ | ⟨st, rest, hb, hp, -⟩ | ⟨hb, -, hm⟩ | ⟨q, rest, hb, hq, -⟩ := fetchMuf_cases s
  · cases (step_empty (hf.trans hm)).symm.trans h
  · have hexec : execStmt st (jump rest s) = .next t := (step_of_prog hs hb hp).symm.trans h
    exact .inr ⟨st, rest, hb, hp, jump_env s rest ▸ execStmt_takes hexec⟩
  · cases (step_idle (hf.trans hm)).symm.trans h
    exact .inl ⟨hb, s.env.reqs, rfl⟩
  · have hi := ne_errResponse_of_space (.inl (decodeHost_space q.op q.arg0 q.arg1))
    exact .inl ⟨hb, rest, exec_env hi ((step_of_request hs hb hq).symm.trans h)⟩

/-- R181: the sequencer has a statement that takes a received byte only in a session that exchanges bytes. -/
theorem MovedPast.exchanging_of_readsRx {st : Stmt} {u : State} (h : MovedPast st u) (hr : st.readsRx = true) :
    u.sess.exchanging = true := by
  cases st with
  | run i => exact h.run_inv.1
  | decodeLine | act => cases hr
  | micro m =>
    have hseq := h.seq
    cases m with
    | poll | readback | readLf | readPrompt => simp_all [wellSequenced]
    | _ => cases hr

/-- Settles O51: of what a statement takes, only a read and an acknowledgement of TP reach the queue of received bytes,
and a read has its session. -/
theorem receivedBytesAreTakenInOrder : Obligations.ReceivedBytesAreTakenInOrder := by
  intro s t hinv hs h hacks
  obtain ⟨-, reqs, henv⟩ | ⟨st, rest, hb, hp, htakes⟩ := step_takes hs h
  · exact .inl (by rw [henv])
  · cases htakes with
    | byte b more hst hrx henv =>
      have hx : s.sess.exchanging = true := (hinv.movedPast hb hp []).exchanging_of_readsRx hst
      exact .inr ⟨hx, b, by rw [henv, hrx]⟩
    | ack queue acks hq henv =>
      have hsame : acks = queue :: acks := (congrArg Env.tpAcks henv).symm.trans (hacks.trans hq)
      exact absurd hsame.symm (List.cons_ne_self queue acks)
    | nothing henv => exact .inl (by rw [henv])
    | timeout henv => exact .inl (by rw [henv])
    | payload _ _ _ henv => exact .inl (by rw [henv])
    | hexItem _ _ _ _ henv => exact .inl (by rw [henv])

/-- Settles O52: of the statements, only the read of a line's next character takes an item of the HEX input. -/
theorem hexCharactersAreReadOnceInOrder : Obligations.HexCharactersAreReadOnceInOrder := by
  intro s t hs h
  obtain ⟨-, reqs, henv⟩ | ⟨st, rest, hb, hp, htakes⟩ := step_takes hs h
  · exact .inl (by rw [henv])
  · cases htakes with
    | hexItem x items hst hhx henv => exact .inr ⟨hb, ⟨rest, hst ▸ hp⟩, x, by rw [henv, hhx]⟩
    | nothing henv => exact .inl (by rw [henv])
    | byte _ _ _ _ henv => exact .inl (by rw [henv])
    | timeout henv => exact .inl (by rw [henv])
    | ack _ _ _ henv => exact .inl (by rw [henv])
    | payload _ _ _ henv => exact .inl (by rw [henv])

end Sys2Proof.Machine
end

/-!
# Completions, acknowledgements and the error response

What a completion leaves for a host that takes the report, said once for every status; an error of CF, a comparison
that fails and a refused operation are cases of it.
-/
section

namespace Sys2Proof.Machine

/-! ## Completion and error entry -/

/-- The report of a completion with the status `st` of the operation `op` (R31, R209). -/
def Status.report (st : Status) (op : Nibble) : Report :=
  { cause := st.cause, sub := st.sub, exp := st.exp, act := st.act, code := st.devCode, op := op }

theorem complete_of_doneReady {s : State} (h : s.env.doneReady = true) (st : Status) :
    complete st s = s.reported (st.report s.opCur) := by
  obtain ⟨-, hc⟩ | ⟨hd, -⟩ := complete_cases st s
  · exact hc
  · cases h.symm.trans hd

/-- R207: error entry for an error of CF. -/
theorem raise_of_doneReady {s : State} (h : s.env.doneReady = true) {e : Err} (he : e.ofCf = true) :
    raise e s = s.failed (Status.report (.error e) s.opCur) := by
  rw [raise, complete_of_doneReady (s := releaseHex (demote e (setFault s))) h, demote, afterError_cf he]
  rfl

/-- R157, R203: a comparison that fails. -/
theorem expect_of_ne {s : State} (hd : s.env.doneReady = true) {e a : Byte} (h : a ≠ e) :
    expect e a s = s.failed (protocolReport e a s.opCur) := by
  rw [expect, if_neg h]
  exact raise_of_doneReady hd rfl

/-! ## The read of one byte with none waiting (R153) -/

theorem readOne_of_timeout {s : State} (hrx : s.env.rx = []) (ht : s.env.rxTmo = true)
    (hc : Config.tpHasTimeout = true) (self : Stmt) (k : Byte → State → State) :
    readOne self k s = raise .timeoutBlocking { s with env := { s.env with rxTmo := false } } := by
  simp [readOne, readByte, hrx, ht, hc]

theorem readOne_of_waiting {s : State} (hrx : s.env.rx = [])
    (hw : s.env.rxTmo = false ∨ Config.tpHasTimeout = false) (self : Stmt) (k : Byte → State → State) :
    readOne self k s = hold self s := by
  obtain hw | hw := hw <;> simp [readOne, readByte, hrx, hw]

/-! ## The instructions -/

theorem exec_errResponse (s : State) :
    exec .errResponse s = .next (readOne (.run .errResponse) (fun c t => raise (.deviceError c) t) s) := by
  rfl

theorem exec_ackOk (s : State) : exec .ackOk s = .next (expect Config.ackOk s.rtByte s) := by
  rfl

theorem exec_ackEchoBaud (s : State) : exec .ackEchoBaud s = .next (expect Config.opBaud s.rtByte s) := by
  rfl

theorem exec_reservedHostOp (code : Nibble) (s : State) :
    exec (.reservedHostOp code) s = .next (complete (.refused code) (latchOp code s)) := by
  rfl

/-- Settles O10: the read of the status byte finds one, waits, or ends by TP's timeout. -/
theorem errorIndicatorEndsInDeviceError : Obligations.ErrorIndicatorEndsInDeviceError := by
  intro s hd
  simp only [exec_errResponse]
  refine ⟨fun c more hrx => ?_, fun hrx ht => ?_, fun hrx ht => ?_⟩
  · rw [readOne_of_byte hrx, raise_of_doneReady]
    exacts [rfl, hd, rfl]
  · rw [readOne_of_waiting hrx (.inl ht)]
    rfl
  · split
    · next hc =>
      rw [readOne_of_timeout hrx ht hc, raise_of_doneReady]
      exacts [rfl, hd, rfl]
    · next hc =>
      rw [readOne_of_waiting hrx (.inr (Bool.eq_false_of_not_eq_true hc))]
      rfl

/-- Settles O12: a comparison passes on the expected byte and raises on any other. -/
theorem acknowledgementsAreCompared : Obligations.AcknowledgementsAreCompared := by
  intro s hd
  rw [exec_ackOk, exec_ackEchoBaud]
  refine ⟨fun h => ?_, fun h => ?_, fun h => ?_, fun h => ?_⟩
  · rw [h, expect_self]
  · rw [expect_of_ne hd h]
  · rw [h, expect_self]
  · rw [expect_of_ne hd h]

/-- Settles O27: a refusal is a completion, and the admission table is not asked. -/
theorem reservedCodeIsRefused : Obligations.ReservedCodeIsRefused := by
  intro code s _ hd
  rw [exec_reservedHostOp, complete_of_doneReady (s := latchOp code s) hd]
  rfl

end Sys2Proof.Machine
end

/-!
# The encodings

Each encoded language of R80 is read back by its decoder: first its pieces (a parameter, a hex digit, a byte, a line),
then its instructions, space by space.
-/
section

namespace Sys2Proof

/-! ## Parameters and byte streams -/

/-- R86: the four bytes of a parameter are read back as the parameter. -/
theorem takeU32_le32 (v : Word) (rest : List Byte) : takeU32 (le32 v ++ rest) = some (v, rest) := by
  have hv : ofLe32 (v.extractLsb' 0 8) (v.extractLsb' 8 8) (v.extractLsb' 16 8) (v.extractLsb' 24 8) = v := by
    simp only [ofLe32, BitVec.extractLsb'_append_extractLsb'_eq_extractLsb']
    exact BitVec.extractLsb'_eq_self
  exact congrArg (fun w => some (w, rest)) hv

theorem skipRaw_append {n : Nat} {raw : List Byte} (h : raw.length = n) (rest : List Byte) :
    skipRaw n (raw ++ rest) = some rest := by
  simp [skipRaw, ← h]

theorem decodeF1_le32 (mk : Word → Instr) (v : Word) (rest : List Byte) :
    decodeF1 mk (le32 v ++ rest) = .ok (mk v) rest := by
  rw [decodeF1, takeU32_le32]

theorem decodeF2_le32 (mk : Word → Word → Instr) (v w : Word) (rest : List Byte) :
    decodeF2 mk (le32 v ++ (le32 w ++ rest)) = .ok (mk v w) rest := by
  rw [decodeF2, takeU32_le32]
  exact decodeF1_le32 (mk v) w rest

/-- R85, R95: two parameters and a payload of as many bytes as the second says. -/
theorem decodeF3_le32 (mk : Word → Word → Instr) (v n : Word) {payload : List Byte}
    (h : payload.length = n.toNat) (rest : List Byte) :
    decodeF3 mk (le32 v ++ (le32 n ++ (payload ++ rest))) = .ok (mk v n) rest := by
  simp only [decodeF3, takeU32_le32, skipRaw_append h]

/-! ## HEX text -/

/-- R83, R119: a hex digit is written as its value reads. -/
theorem hexVal_hexDigit (n : Nibble) : hexVal (hexDigit n) = some n := by
  revert n
  decide

theorem hexDigit_not_terminator (n : Nibble) : isTerminator (hexDigit n) = false := by
  revert n
  decide

theorem hexByte_hexDigits (b : Byte) :
    hexByte (hexDigit (b.extractLsb' 4 4)) (hexDigit (b.extractLsb' 0 4)) = some b := by
  have hb : b.extractLsb' 4 4 ++ b.extractLsb' 0 4 = b := BitVec.extractLsb'_append_extractLsb'
  simp only [hexByte, hexVal_hexDigit, hb]

theorem hexDigits_length (bs : List Byte) : (bs.flatMap hexDigits).length = 2 * bs.length := by
  simp [List.length_flatMap, hexDigits, Nat.mul_comm]

/-- R114: the digits of bytes are paired to the bytes. -/
theorem pairBytes_hexDigits (bs : List Byte) : pairBytes (bs.flatMap hexDigits) = some bs := by
  induction bs with
  | nil => rfl
  | cons b bs ih =>
    simp only [List.flatMap_cons, hexDigits, List.cons_append, List.nil_append, pairBytes, hexByte_hexDigits] at ih ⊢
    rw [ih]

theorem stripTerminators_of_none {line : List Byte} (h : ∀ c ∈ line, isTerminator c = false) :
    stripTerminators line = line := by
  induction line with
  | nil => rfl
  | cons c cs ih =>
    obtain ⟨hc, hcs⟩ := List.forall_mem_cons.1 h
    rw [stripTerminators, ih hcs]
    cases cs <;> simp [hc]

/-- A line of hex digits after the mark has no terminator to strip (R110). -/
theorem stripTerminators_hexLine (bs : List Byte) :
    stripTerminators (Config.hexMark :: bs.flatMap hexDigits) = Config.hexMark :: bs.flatMap hexDigits := by
  refine stripTerminators_of_none fun c hc => ?_
  obtain rfl | hc := List.mem_cons.1 hc
  · rfl
  · obtain ⟨b, -, hb⟩ := List.mem_flatMap.1 hc
    simp only [hexDigits, List.mem_cons, List.not_mem_nil, or_false] at hb
    obtain rfl | rfl := hb <;> exact hexDigit_not_terminator _

/-- R110 to R114: the bytes of a line whose byte count is right. -/
theorem lineBytes_hexDigits {ll : Byte} {bs : List Byte} (h : bs.length + 1 = Config.hexOverhead + ll.toNat) :
    lineBytes (Config.hexMark :: (ll :: bs).flatMap hexDigits) = .bytes (ll :: bs) := by
  have hpair := pairBytes_hexDigits (ll :: bs)
  have hlen := hexDigits_length (ll :: bs)
  rw [List.length_cons, h] at hlen
  rw [lineBytes, stripTerminators_hexLine]
  simp only [List.flatMap_cons, hexDigits, List.cons_append, List.nil_append] at hpair hlen ⊢
  simp only [if_true, hexByte_hexDigits, hlen, hpair]

/-- R115, R119: the checksum makes the sum 0. -/
theorem checksumAcc_append_neg (bs : List Byte) : checksumAcc (bs ++ [-checksumAcc bs]) = 0#8 := by
  rw [checksumAcc, List.foldl_append]
  exact BitVec.add_right_neg (checksumAcc bs)

/-- R6, R119: a payload's length fits the length byte. -/
theorem toNat_recordLength {payload : List Byte} (h : payload.length ≤ Config.lenMax) :
    (BitVec.ofNat 8 payload.length).toNat = payload.length :=
  (BitVec.toNat_ofNat _ 8).trans (Nat.mod_eq_of_lt (Nat.lt_succ_of_le h))

/-- R114: the fields of a record's bytes. -/
theorem parseRecord_recordBytes (type : Byte) (off : Half) {payload : List Byte} (h : payload.length ≤ Config.lenMax)
    (cks : Byte) :
    parseRecord (recordBytes type off payload ++ [cks])
      = .record
          { len := BitVec.ofNat 8 payload.length, off := off, type := type, payload := payload, cks := cks } := by
  have hlen := toNat_recordLength h
  have hoff : be16 (off.extractLsb' 8 8) (off.extractLsb' 0 8) = off :=
    BitVec.extractLsb'_append_extractLsb'
  simp [parseRecord, recordBytes, hlen, hoff]

/-- R119, R120: `Decode(Encode(r))` is `r` with its checksum. -/
theorem decodeLine_encodeLine (type : Byte) (off : Half) {payload : List Byte}
    (h : payload.length ≤ Config.lenMax) :
    decodeLine (encodeLine type off payload)
      = .record
          { len := BitVec.ofNat 8 payload.length, off := off, type := type, payload := payload,
            cks := recordChecksum type off payload } := by
  have hbytes : lineBytes (encodeLine type off payload)
      = .bytes (recordBytes type off payload ++ [recordChecksum type off payload]) := by
    have hcount : payload.length + 5 = Config.hexOverhead + (BitVec.ofNat 8 payload.length).toNat := by
      rw [toNat_recordLength h, Nat.add_comm]
    refine lineBytes_hexDigits (.trans ?_ hcount)
    simp
  rw [decodeLine, hbytes]
  simp only [recordChecksum, checksumAcc_append_neg, if_true, parseRecord_recordBytes type off h]

/-! ## The spaces -/

/-- R87: each command frame. -/
theorem decode_encode_wire {i : Instr} (h : i.space = .wire) : decode .wire (encode i) = .ok i [] := by
  cases i with
  | opSync | opCr => rfl
  | opBaud rate => exact decodeF1_le32 .opBaud rate []
  | opRun address => exact decodeF1_le32 .opRun address []
  | opVfy address size => exact decodeF2_le32 .opVfy address size []
  | opLoad address length =>
    have hpay := decodeF3_le32 .opLoad address length (List.length_replicate (a := 0#8)) []
    rw [List.append_nil, ← List.append_assoc] at hpay
    exact hpay
  | _ => cases h

/-- R88, R178: the readback bytes are skipped, whatever they are, and the acknowledgement follows. -/
theorem decodeResponse_readback {size : Word} {raw : List Byte} (h : raw.length = size.toNat) (rest : List Byte) :
    decodeResponse (.readback size) (raw ++ Config.ackOk :: rest) = .ok (.vfyReadback size) rest := by
  simp only [decodeResponse, skipRaw_append h]
  exact decodeAck_expected (.vfyReadback size) rest (by decide)

/-- R88, R89: each response, at the point of the exchange it is read at. -/
theorem decode_encode_response {i : Instr} {p : RespPoint} (h : i.space = .response p) :
    decode (.response p) (encode i) = .ok i [] := by
  cases i with
  | ackOk | ackEchoBaud | crSequence | errResponse => cases h; rfl
  | vfyReadback size =>
    cases h
    exact decodeResponse_readback List.length_replicate []
  | _ => cases h

/-- R131: a well-formed line is taken whole. -/
theorem takeLine_of_wellFormed {line : List Byte} (h : lineWellFormed line = true) : takeLine line = (line, []) := by
  induction line with
  | nil => cases h
  | cons c cs ih =>
    cases cs with
    | nil => simp [takeLine]
    | cons d ds =>
      simp only [lineWellFormed, Bool.and_eq_true, bne_iff_ne] at h
      obtain ⟨hc, hline⟩ := h
      rw [takeLine, if_neg hc, ih hline]

theorem decode_encode_hexLine {i : Instr} (h : i.space = .hexLine) (hwf : i.wellFormed = true) :
    decode .hexLine (encode i) = .ok i [] := by
  cases i with
  | hexrec line =>
    cases line with
    | nil => cases hwf
    | cons c cs =>
      simp only [decode, encode]
      rw [takeLine_of_wellFormed hwf]
  | _ => cases h

/-- R84, R119: a record is read back as the instruction of its type. -/
theorem decode_record_encodeLine (type : Byte) (off : Half) {payload : List Byte}
    (h : payloadWellFormed payload = true) :
    decode .record (encodeLine type off payload) = .ok (recordInstr type off payload) [] := by
  simp only [decode, decodeLine_encodeLine type off (of_decide_eq_true h)]

/-- R84: the types from 0x06 up are unknown. -/
theorem recordInstr_unknown {type : Byte} (h : 6 ≤ type.toNat) (off : Half) (payload : List Byte) :
    recordInstr type off payload = .hexUnknown type off payload := by
  have hne : ∀ t : Byte, t.toNat < 6 → type ≠ t := by
    rintro t ht rfl
    omega
  simp [recordInstr, hne]

theorem payloadWellFormed_of_length {payload : List Byte} {n : Nat} (h : payload.length = n)
    (hn : n ≤ Config.lenMax) : payloadWellFormed payload = true :=
  decide_eq_true (h ▸ hn)

theorem decode_encode_record {i : Instr} (h : i.space = .record) (hwf : i.wellFormed = true) :
    decode .record (encode i) = .ok i [] := by
  cases i with
  | hexData off p | hexEndOfFile off p | hexExtendedSegmentAddress off p | hexStartSegmentAddress off p =>
    exact decode_record_encodeLine _ off hwf
  | hexExtendedLinearAddress off p | hexStartLinearAddress off p =>
    exact decode_record_encodeLine _ off (payloadWellFormed_of_length (of_decide_eq_true hwf) (by decide))
  | hexUnknown type off p =>
    simp only [Instr.wellFormed, Bool.and_eq_true, decide_eq_true_eq] at hwf
    obtain ⟨htype, hpay⟩ := hwf
    exact (decode_record_encodeLine type off hpay).trans (by rw [recordInstr_unknown htype])
  | _ => cases h

/-- R91: a request is read back as the operation of its code. -/
theorem decode_host_encodeHost (op : Nibble) (arg0 arg1 : Word) :
    decode .host (encodeHost op arg0 arg1) = .ok (decodeHost op arg0 arg1) [] := by
  have hop : (op.zeroExtend 8).truncate 4 = op := by
    simp
  have hlt : (op.zeroExtend 8).toNat < 16 := by
    rw [BitVec.toNat_setWidth_of_le (by decide)]
    exact op.isLt
  have hargs := decodeF2_le32 (decodeHost op) arg0 arg1 []
  rw [List.append_nil] at hargs
  simp only [decode, encodeHost, decodeHostBytes, hlt, if_true, hop, hargs]

/-- R94: the codes from 0xA up are reserved. -/
theorem decodeHost_reserved {op : Nibble} (h : 10 ≤ op.toNat) (arg0 arg1 : Word) :
    decodeHost op arg0 arg1 = .reservedHostOp op := by
  have hne : ∀ c : Nibble, c.toNat < 10 → op ≠ c := by
    rintro c hc rfl
    omega
  simp [decodeHost, hne]

theorem decode_encode_host {i : Instr} (h : i.space = .host) (hwf : i.wellFormed = true) :
    decode .host (encode i) = .ok i [] := by
  cases i with
  | hostOpen | hostClose | hostConnect | cmdSync | cmdCr | cmdBaud | cmdLoad | cmdVfy | cmdRun | hexrun =>
    exact decode_host_encodeHost _ _ _
  | reservedHostOp code =>
    exact (decode_host_encodeHost code 0#32 0#32).trans (by rw [decodeHost_reserved (of_decide_eq_true hwf)])
  | _ => cases h

/-- Settles O1: space by space. -/
theorem decodeOfEncodeIsTheInstruction : Obligations.DecodeOfEncodeIsTheInstruction := by
  intro i hwf
  cases h : i.space with
  | wire => exact decode_encode_wire h
  | response p => exact decode_encode_response h
  | hexLine => exact decode_encode_hexLine h hwf
  | record => exact decode_encode_record h hwf
  | host => exact decode_encode_host h hwf

/-- Settles O6: a word is what the encoder writes, an error response or a readback, or ends too soon. -/
theorem someWordsDecode : Obligations.SomeWordsDecode := by
  refine ⟨?_, ?_, ?_, ?_, ?_, ?_, ?_, ?_⟩
  · exact decodeOfEncodeIsTheInstruction (.opBaud 115200#32) rfl
  · exact decodeOfEncodeIsTheInstruction .crSequence rfl
  · exact decodeResponse_errInd .ackOk [] 0x63#8 [] rfl
  · rfl
  · exact decodeResponse_errInd (.readback 1#32) [0x45#8] 0x69#8 [] rfl
  · exact decodeResponse_readback (size := 1#32) (raw := [0x45#8]) rfl []
  · exact decodeOfEncodeIsTheInstruction (.hexData 0x0010#16 [0xAA#8]) rfl
  · exact decodeOfEncodeIsTheInstruction (.cmdLoad 0x00010010#32 1#32) rfl

end Sys2Proof
end

/-!
# The HEX line

What `Decode` answers for a line, from its parts: the line without its terminators, its pairs of digits, its checks in
the order of R116, its checksum, its record.  Then HRV's line buffer before it and the record registers after it.
-/
section

namespace Sys2Proof

/-! ## The terminator -/

theorem isTerminator_iff {c : Byte} : isTerminator c = true ↔ c = Config.charCr ∨ c = Config.charLf := by
  simp [isTerminator]

theorem stripTerminators_eq_rdropWhile (line : List Byte) :
    stripTerminators line = line.rdropWhile isTerminator := by
  induction line with
  | nil => rfl
  | cons c cs ih =>
    rw [stripTerminators, ih]
    simp only [List.rdropWhile, List.reverse_cons, List.dropWhile_append, List.isEmpty_iff]
    split
    · next h =>
      rw [List.reverse_eq_nil_iff] at h
      by_cases hc : isTerminator c = true <;> simp [h, hc]
    · next h =>
      have hne : cs.reverse.dropWhile isTerminator ≠ [] := fun hd => h (List.reverse_eq_nil_iff.2 hd)
      rw [if_neg hne, List.reverse_append]
      rfl

theorem stripTerminators_eq_nil_iff {line : List Byte} :
    stripTerminators line = [] ↔ ∀ c ∈ line, isTerminator c = true := by
  rw [stripTerminators_eq_rdropWhile, List.rdropWhile_eq_nil_iff]

/-- R110: characters before a part that is more than terminators are kept, terminators or not. -/
theorem stripTerminators_append_of_ne_nil {t : List Byte} (h : stripTerminators t ≠ []) (s : List Byte) :
    stripTerminators (s ++ t) = s ++ stripTerminators t := by
  rw [stripTerminators_eq_rdropWhile] at h
  have hne : t.reverse.dropWhile isTerminator ≠ [] := fun hd => h (by simp [List.rdropWhile, hd])
  simp [stripTerminators_eq_rdropWhile, List.rdropWhile, List.dropWhile_append, hne]

theorem stripTerminators_append_terminators {t : List Byte} (h : ∀ c ∈ t, isTerminator c = true) (s : List Byte) :
    stripTerminators (s ++ t) = stripTerminators s := by
  have hnil : t.reverse.dropWhile isTerminator = [] := by simpa using h
  simp [stripTerminators_eq_rdropWhile, List.rdropWhile, List.dropWhile_append, hnil]

theorem stripTerminators_of_getLast {s : List Byte} (hcr : s.getLast? ≠ some Config.charCr)
    (hlf : s.getLast? ≠ some Config.charLf) : stripTerminators s = s := by
  rw [stripTerminators_eq_rdropWhile, List.rdropWhile_eq_self_iff]
  intro hne hlast
  rw [List.getLast?_eq_some_getLast hne] at hcr hlf
  obtain h | h := isTerminator_iff.1 hlast
  · exact hcr (congrArg some h)
  · exact hlf (congrArg some h)

/-! ## The pairs of digits (R83, R114) -/

theorem hexByte_eq_none_iff {c0 c1 : Byte} : hexByte c0 c1 = none ↔ hexVal c0 = none ∨ hexVal c1 = none := by
  unfold hexByte
  cases hexVal c0 <;> cases hexVal c1 <;> simp

theorem pairBytes_cons_cons_eq_some_iff {c0 c1 : Byte} {cs bs : List Byte} :
    pairBytes (c0 :: c1 :: cs) = some bs
      ↔ ∃ b bs', hexByte c0 c1 = some b ∧ pairBytes cs = some bs' ∧ bs = b :: bs' := by
  rw [pairBytes]
  cases hexByte c0 c1 <;> cases pairBytes cs <;> simp [eq_comm]

/-- R114: `B[j]` is the value of the characters `2 * j` and `2 * j + 1`. -/
theorem pairBytes_eq_some_iff {cs bs : List Byte} :
    pairBytes cs = some bs
      ↔ cs.length = 2 * bs.length
        ∧ ∀ j, j < bs.length → hexByte (cs.getD (2 * j) 0#8) (cs.getD (2 * j + 1) 0#8) = some (bs.getD j 0#8) := by
  induction cs using List.twoStepInduction generalizing bs with
  | nil => cases bs <;> simp [pairBytes]
  | singleton c =>
    simp only [pairBytes, List.length_singleton, reduceCtorEq, false_iff, not_and]
    omega
  | cons_cons c0 c1 cs ih _ =>
    cases bs with
    | nil => simp [pairBytes_cons_cons_eq_some_iff]
    | cons b bs =>
      have hcons : pairBytes (c0 :: c1 :: cs) = some (b :: bs)
          ↔ hexByte c0 c1 = some b ∧ pairBytes cs = some bs := by
        simp [pairBytes_cons_cons_eq_some_iff]
      rw [hcons, ih]
      simp only [List.length_cons, Nat.forall_lt_succ_left, Nat.mul_add_one, Nat.mul_zero, List.getD_cons_zero,
        List.getD_cons_succ, Nat.add_right_cancel_iff, and_left_comm]

/-- R113: a character that is no hex digit leaves its pair without a value. -/
theorem pairBytes_eq_none_of_mem {cs : List Byte} {c : Byte} (hc : c ∈ cs) (hv : hexVal c = none) :
    pairBytes cs = none := by
  induction cs using List.twoStepInduction with
  | nil => cases hc
  | singleton => rfl
  | cons_cons c0 c1 cs ih _ =>
    rw [Option.eq_none_iff_forall_not_mem]
    intro bs hbs
    obtain ⟨b, bs', hb, hbs', -⟩ := pairBytes_cons_cons_eq_some_iff.1 hbs
    have hdigits : ¬(hexVal c0 = none ∨ hexVal c1 = none) := by simp [← hexByte_eq_none_iff, hb]
    obtain rfl | rfl | hc : c = c0 ∨ c = c1 ∨ c ∈ cs := by simpa using hc
    · exact hdigits (.inl hv)
    · exact hdigits (.inr hv)
    · simp [ih hc] at hbs'

/-! ## The checks before the checksum, in the order of R116 -/

theorem lineBytes_of_no_mark {line : List Byte} (h : (stripTerminators line).head? ≠ some Config.hexMark) :
    lineBytes line = .malformed .mark := by
  unfold lineBytes
  cases hs : stripTerminators line with
  | nil => rfl
  | cons m body => exact if_neg fun hm => h (by rw [hs, hm, List.head?_cons])

theorem lineBytes_of_short {line body : List Byte} (h : stripTerminators line = Config.hexMark :: body)
    (hlen : body.length < 2) : lineBytes line = .malformed .length := by
  rw [lineBytes, h]
  match body, hlen with
  | [], _ => rfl
  | [_], _ => rfl

section afterTheMark

variable {line r : List Byte} {c0 c1 ll : Byte} (h : stripTerminators line = Config.hexMark :: c0 :: c1 :: r)
include h

theorem lineBytes_of_length_digit (hd : hexByte c0 c1 = none) : lineBytes line = .malformed .digit := by
  simp only [lineBytes, h, hd, if_true]

theorem lineBytes_of_count_ne (hll : hexByte c0 c1 = some ll)
    (hn : (c0 :: c1 :: r).length ≠ 2 * (Config.hexOverhead + ll.toNat)) : lineBytes line = .malformed .length := by
  simp only [lineBytes, h, hll, hn, if_true, if_false]

theorem lineBytes_of_digit (hll : hexByte c0 c1 = some ll)
    (hn : (c0 :: c1 :: r).length = 2 * (Config.hexOverhead + ll.toNat)) (hp : pairBytes (c0 :: c1 :: r) = none) :
    lineBytes line = .malformed .digit := by
  simp only [lineBytes, h, hll, hn, hp, if_true]

theorem lineBytes_of_pairBytes {bs : List Byte} (hll : hexByte c0 c1 = some ll)
    (hn : (c0 :: c1 :: r).length = 2 * (Config.hexOverhead + ll.toNat)) (hp : pairBytes (c0 :: c1 :: r) = some bs) :
    lineBytes line = .bytes bs := by
  simp only [lineBytes, h, hll, hn, hp, if_true]

end afterTheMark

theorem lineBytes_congr {line line' : List Byte} (h : stripTerminators line = stripTerminators line') :
    lineBytes line = lineBytes line' := by
  rw [lineBytes, lineBytes, h]

/-- R110 to R114: the bytes of a line are the pairs of its characters after the mark, as many as the first two say. -/
theorem pairBytes_of_lineBytes {line bs : List Byte} (h : lineBytes line = .bytes bs) :
    ∃ c0 c1 r ll, hexByte c0 c1 = some ll ∧ (c0 :: c1 :: r).length = 2 * (Config.hexOverhead + ll.toNat)
      ∧ pairBytes (c0 :: c1 :: r) = some bs := by
  unfold lineBytes at h
  repeat' split at h
  -- every branch but that of a line that passes all checks answers `malformed`
  all_goals cases h
  next hll hn _ hp => exact ⟨_, _, _, _, hll, hn, hp⟩

/-- R112: the bytes of a line are as many as the first of them says. -/
theorem length_of_lineBytes {line bs : List Byte} (h : lineBytes line = .bytes bs) :
    bs.length = Config.hexOverhead + (bs.getD 0 0#8).toNat := by
  obtain ⟨c0, c1, r, ll, hll, hn, hp⟩ := pairBytes_of_lineBytes h
  obtain ⟨b, bs', hb, -, rfl⟩ := pairBytes_cons_cons_eq_some_iff.1 hp
  obtain rfl := Option.some.inj (hll.symm.trans hb)
  have hlen := (pairBytes_eq_some_iff.1 hp).1
  rw [List.getD_cons_zero]
  omega

/-- R112, R118: of two lines longer than any valid line only the first three characters count. -/
theorem lineBytes_eq_of_too_long {line line' r r' : List Byte} {m c0 c1 : Byte}
    (h : stripTerminators line = m :: c0 :: c1 :: r) (h' : stripTerminators line' = m :: c0 :: c1 :: r')
    (hlen : Config.lineMax < (m :: c0 :: c1 :: r).length) (hlen' : Config.lineMax < (m :: c0 :: c1 :: r').length) :
    lineBytes line = lineBytes line' := by
  by_cases hm : m = Config.hexMark
  · subst hm
    cases hll : hexByte c0 c1 with
    | none => rw [lineBytes_of_length_digit h hll, lineBytes_of_length_digit h' hll]
    | some ll =>
      have hmax := ll.isLt
      simp only [Config.lineMax, List.length_cons] at hlen hlen'
      rw [lineBytes_of_count_ne h hll (by simp only [Config.hexOverhead, List.length_cons]; omega),
        lineBytes_of_count_ne h' hll (by simp only [Config.hexOverhead, List.length_cons]; omega)]
  · rw [lineBytes_of_no_mark (by simp [h, hm]), lineBytes_of_no_mark (by simp [h', hm])]

/-! ## The checksum and the record -/

theorem checksumAcc_eq_sum (bs : List Byte) : checksumAcc bs = bs.sum :=
  List.sum_eq_foldl.symm

theorem checksumAcc_eq_ofNat (bs : List Byte) : checksumAcc bs = BitVec.ofNat 8 (bs.map BitVec.toNat).sum := by
  rw [checksumAcc_eq_sum]
  induction bs with
  | nil => rfl
  | cons b bs ih =>
    rw [List.sum_cons, ih, List.map_cons, List.sum_cons, BitVec.ofNat_add, BitVec.ofNat_toNat, BitVec.setWidth_eq]

/-- R115: the accumulator is the sum modulo 256. -/
theorem checksumAcc_eq_zero_iff {bs : List Byte} : checksumAcc bs = 0#8 ↔ (bs.map BitVec.toNat).sum % 256 = 0 := by
  rw [checksumAcc_eq_ofNat, ← BitVec.toNat_inj, BitVec.toNat_ofNat]
  rfl

/-- R115: the bytes before the checksum fix it. -/
theorem eq_of_checksumAcc_append {bs : List Byte} {c c' : Byte} (h : checksumAcc (bs ++ [c]) = 0#8)
    (h' : checksumAcc (bs ++ [c']) = 0#8) : c = c' := by
  rw [checksumAcc_eq_sum, List.sum_append, List.sum_singleton] at h h'
  exact (BitVec.add_right_inj _).1 (h.trans h'.symm)

theorem decodeLine_of_malformed {line : List Byte} {sub : MalSub} (h : lineBytes line = .malformed sub) :
    decodeLine line = .malformed sub := by
  rw [decodeLine, h]

theorem decodeLine_of_checksum_ne {line bs : List Byte} (h : lineBytes line = .bytes bs)
    (hsum : checksumAcc bs ≠ 0#8) : decodeLine line = .malformed .checksum := by
  simp only [decodeLine, h, hsum, if_false]

theorem decodeLine_of_checksum {line bs : List Byte} (h : lineBytes line = .bytes bs) (hsum : checksumAcc bs = 0#8) :
    decodeLine line = parseRecord bs := by
  simp only [decodeLine, h, hsum, if_true]

theorem decodeLine_congr {line line' : List Byte} (h : lineBytes line = lineBytes line') :
    decodeLine line = decodeLine line' := by
  rw [decodeLine, decodeLine, h]

/-- The bytes of a record, in the order of its line (R114). -/
def HexRecord.bytes (r : HexRecord) : List Byte :=
  r.len :: r.off.extractLsb' 8 8 :: r.off.extractLsb' 0 8 :: r.type :: (r.payload ++ [r.cks])

theorem HexRecord.be16_bytes (r : HexRecord) : be16 (r.bytes.getD 1 0#8) (r.bytes.getD 2 0#8) = r.off :=
  BitVec.extractLsb'_append_extractLsb'

/-- R114: a record is read back from its bytes. -/
theorem parseRecord_bytes {r : HexRecord} (h : r.payload.length = r.len.toNat) : parseRecord r.bytes = .record r := by
  have hoff : be16 (r.off.extractLsb' 8 8) (r.off.extractLsb' 0 8) = r.off := r.be16_bytes
  simp [parseRecord, HexRecord.bytes, hoff, ← h]

/-- R112, R114: as many bytes as the first of them says are the bytes of a record. -/
theorem exists_record_of_length {bs : List Byte} (h : bs.length = Config.hexOverhead + (bs.getD 0 0#8).toNat) :
    ∃ r : HexRecord, bs = r.bytes ∧ r.payload.length = r.len.toNat := by
  have hge : 4 ≤ bs.length := h ▸ Nat.le_add_right_of_le (by decide)
  match bs, hge with
  | ll :: oh :: ol :: tt :: rest, _ =>
    simp only [List.length_cons, List.getD_cons_zero, Config.hexOverhead] at h
    have hne : rest ≠ [] := List.ne_nil_of_length_pos (by omega)
    have hhi : (be16 oh ol).extractLsb' 8 8 = oh := BitVec.extractLsb'_append_eq_left
    have hlo : (be16 oh ol).extractLsb' 0 8 = ol := BitVec.extractLsb'_append_eq_right
    refine ⟨{ len := ll, off := be16 oh ol, type := tt, payload := rest.dropLast, cks := rest.getLast hne }, ?_, ?_⟩
    · rw [HexRecord.bytes, hhi, hlo, List.dropLast_append_getLast]
    · simp only [List.length_dropLast]; omega

theorem checksumAcc_bytes (r : HexRecord) :
    checksumAcc r.bytes
      = r.len + r.off.extractLsb' 8 8 + r.off.extractLsb' 0 8 + r.type + checksumAcc r.payload + r.cks := by
  simp [checksumAcc_eq_sum, HexRecord.bytes, BitVec.add_assoc]

/-- R110 to R115: a valid line is the bytes of its record, as many as it says, with the sum 0. -/
theorem lineBytes_of_record {line : List Byte} {r : HexRecord} (h : decodeLine line = .record r) :
    lineBytes line = .bytes r.bytes ∧ r.payload.length = r.len.toNat ∧ checksumAcc r.bytes = 0#8 := by
  cases hb : lineBytes line with
  | malformed sub =>
    rw [decodeLine_of_malformed hb] at h
    cases h
  | bytes bs =>
    by_cases hsum : checksumAcc bs = 0#8
    · obtain ⟨r', rfl, hlen⟩ := exists_record_of_length (length_of_lineBytes hb)
      rw [decodeLine_of_checksum hb hsum, parseRecord_bytes hlen] at h
      cases h
      exact ⟨rfl, hlen, hsum⟩
    · rw [decodeLine_of_checksum_ne hb hsum] at h
      cases h

/-- Settles O3: each check's lemma in turn, on the line without its terminator. -/
theorem decodeReportsTheFirstFailingCheck : Obligations.DecodeReportsTheFirstFailingCheck := by
  rintro line s terminator rfl hterm hcr hlf
  have hs : stripTerminators (s ++ terminator) = s :=
    (stripTerminators_append_terminators (fun c hc => isTerminator_iff.2 (hterm c hc)) s).trans
      (stripTerminators_of_getLast hcr hlf)
  refine ⟨fun hm => decodeLine_of_malformed (lineBytes_of_no_mark (by rwa [hs])), ?_⟩
  rintro body rfl
  refine ⟨fun hlen => decodeLine_of_malformed (lineBytes_of_short hs hlen), ?_⟩
  rintro c0 c1 r rfl
  refine ⟨fun hd => decodeLine_of_malformed (lineBytes_of_length_digit hs (hexByte_eq_none_iff.2 hd)), ?_⟩
  intro ll hll
  refine ⟨fun hn => decodeLine_of_malformed (lineBytes_of_count_ne hs hll hn), fun hn => ⟨?_, ?_⟩⟩
  · rintro ⟨c, hc, hv⟩
    exact decodeLine_of_malformed (lineBytes_of_digit hs hll hn (pairBytes_eq_none_of_mem hc hv))
  · intro bs hlen hbs
    have hpair : pairBytes (c0 :: c1 :: r) = some bs :=
      pairBytes_eq_some_iff.2 ⟨by rw [hn, hlen], by rwa [hlen]⟩
    have hbytes := lineBytes_of_pairBytes hs hll hn hpair
    have hfirst : bs.getD 0 0#8 = ll := Option.some.inj ((hbs 0 (by omega)).symm.trans hll)
    refine ⟨fun hsum => decodeLine_of_checksum_ne hbytes (mt checksumAcc_eq_zero_iff.1 hsum), fun hsum => ?_⟩
    obtain ⟨record, rfl, hpay⟩ := exists_record_of_length (length_of_lineBytes hbytes)
    rw [decodeLine_of_checksum hbytes (checksumAcc_eq_zero_iff.2 hsum), parseRecord_bytes hpay, record.be16_bytes,
      ← hfirst]
    simp [HexRecord.bytes, ← hpay, Nat.add_comm 4]

/-- Settles O4: the sum of the valid line fixes its checksum byte. -/
theorem checksumBitFlipFailsDecode : Obligations.ChecksumBitFlipFailsDecode := by
  intro line flipped bs c k r hk hvalid hline hflipped
  obtain ⟨hbytes, -, hsum⟩ := lineBytes_of_record hvalid
  rw [LineBytes.bytes.inj (hbytes.symm.trans hline)] at hsum
  refine decodeLine_of_checksum_ne hflipped fun hsum' => ?_
  have hbit := congrArg (BitVec.getLsbD · k) (eq_of_checksumAcc_append hsum hsum')
  simp [hk] at hbit

/-! ## What `Encode` writes -/

/-- R119: the mark and upper-case digits. -/
theorem mem_encodeLine {type : Byte} {off : Half} {payload : List Byte} {c : Byte}
    (h : c ∈ encodeLine type off payload) : c = Config.hexMark ∨ ∃ n, c = hexDigit n := by
  obtain rfl | h := List.mem_cons.1 h
  · exact .inl rfl
  · obtain ⟨b, -, hb⟩ := List.mem_flatMap.1 h
    simp only [hexDigits, List.mem_cons, List.not_mem_nil, or_false] at hb
    exact .inr (hb.elim (⟨_, ·⟩) (⟨_, ·⟩))

theorem hexDigit_not_lower (n : Nibble) : ¬(0x61 ≤ (hexDigit n).toNat) := by
  revert n
  decide

/-- Settles O2: no character of an encoded line is a lower-case digit or a terminator. -/
theorem hexLineRoundTrip : Obligations.HexLineRoundTrip := by
  refine ⟨fun type off payload h => decodeLine_encodeLine type off h, ?_⟩
  rintro line r - ⟨c, hc, hbad⟩ rfl
  obtain rfl | ⟨n, rfl⟩ := mem_encodeLine hc
  · revert hbad
    decide
  · obtain ⟨hlow, -⟩ | hterm := hbad
    · exact hexDigit_not_lower n hlow
    · exact absurd (isTerminator_iff.2 hterm) (by simp [hexDigit_not_terminator])

/-! ## The line buffer (R22, R112) -/

/-- The buffer holds the first 521 characters, and the flag says whether a later one is no terminator. -/
theorem foldl_storeChar (line : List Byte) :
    line.foldl (fun p c => storeChar p.1 p.2 c) (([] : List Byte), false)
      = (line.take Config.lineMax, (line.drop Config.lineMax).any fun c => !isTerminator c) := by
  induction line using List.reverseRecOn with
  | nil => rfl
  | append_singleton l c ih =>
    rw [List.foldl_append, ih, List.foldl_cons, List.foldl_nil]
    by_cases hl : l.length < Config.lineMax
    · simp [storeChar, hl, Nat.le_of_lt hl, List.take_of_length_le, List.drop_eq_nil_of_le, Nat.succ_le_of_lt hl]
    · have hle := Nat.le_of_not_lt hl
      simp [storeChar, hle, List.take_append_of_le_length, List.drop_append_of_le_length]

theorem stripTerminators_concat_mark (s : List Byte) :
    stripTerminators (s ++ [Config.hexMark]) = s ++ [Config.hexMark] :=
  stripTerminators_append_of_ne_nil (t := [Config.hexMark]) (by decide) s

/-- R112, R118: more than terminators beyond a full buffer decodes as one more character does. -/
theorem lineBytes_of_full_buffer {buf tail : List Byte} (hbuf : buf.length = Config.lineMax)
    (htail : stripTerminators tail ≠ []) : lineBytes (buf ++ [Config.hexMark]) = lineBytes (buf ++ tail) := by
  have h := stripTerminators_concat_mark buf
  have h' := stripTerminators_append_of_ne_nil htail buf
  have hpos := List.length_pos_of_ne_nil htail
  match buf, hbuf with
  | m :: c0 :: c1 :: r, hbuf =>
    simp only [List.length_cons] at hbuf
    refine lineBytes_eq_of_too_long h h' ?_ ?_ <;> simp <;> omega

/-- Settles O5: only terminators are dropped, or both lines are too long. -/
theorem boundedLineBufferDecodesTheWholeLine : Obligations.BoundedLineBufferDecodesTheWholeLine := by
  intro line
  simp only [foldl_storeChar]
  refine ⟨List.length_take_le _ _, decodeLine_congr ?_⟩
  have hsplit := List.take_append_drop Config.lineMax line
  by_cases htail : stripTerminators (line.drop Config.lineMax) = []
  · have hterm := stripTerminators_eq_nil_iff.1 htail
    have hovf : ((line.drop Config.lineMax).any fun c => !isTerminator c) = false := by simpa using hterm
    rw [hovf]
    refine lineBytes_congr ?_
    conv_rhs => rw [← hsplit, stripTerminators_append_terminators hterm]
    rfl
  · have hovf : ((line.drop Config.lineMax).any fun c => !isTerminator c) = true := by
      simpa using mt stripTerminators_eq_nil_iff.2 htail
    have hlen : Config.lineMax < line.length := by
      by_contra hle
      exact htail (by rw [List.drop_eq_nil_of_le (Nat.le_of_not_lt hle)]; rfl)
    rw [hovf]
    exact (lineBytes_of_full_buffer (List.length_take_of_le hlen.le) htail).trans (by rw [hsplit])

end Sys2Proof

namespace Sys2Proof.Machine

/-- R110: what a valid line leaves. -/
theorem exec_hexrec_of_record {line : List Byte} {r : HexRecord} (h : decodeLine line = .record r) (s : State) :
    exec (.hexrec line) s = .next (writeRecord r (setChecksumAcc 0#8 s)) := by
  obtain ⟨hbytes, -, hsum⟩ := lineBytes_of_record h
  simp only [exec, execHexrec, h, finalChecksumAcc, hbytes, hsum]

/-- R21: the record registers hold the record written. -/
theorem recordRegs_writeRecord {r : HexRecord} (hlen : r.payload.length = r.len.toNat)
    (hmax : r.payload.length ≤ Config.recPaySize) {s : State} (hwf : Memory.wf s.recPay = true) :
    recordRegs (writeRecord r s) = r := by
  have hpay : recPayload (writeRecord r s) = r.payload := by
    rw [recPayload, writeRecord_recPay, writeRecord_recLen, ← hlen]
    exact Memory.readBytes_writeBytes hwf hmax
  rw [recordRegs, hpay]
  rfl

/-- Settles O17: the record is written over REC_PAY from index 0, by its length. -/
theorem validLineWritesTheRecordRegisters : Obligations.ValidLineWritesTheRecordRegisters := by
  intro line r s h hwf
  obtain ⟨-, hlen, hsum⟩ := lineBytes_of_record h
  have hmax := decodeLine_payload_length h
  refine ⟨_, exec_hexrec_of_record h s, rfl, fun a => ?_, recordRegs_writeRecord hlen hmax hwf, hlen, ?_⟩
  · have hread := Memory.read_writeBytes hwf (i := 0) (by simpa using hmax) a
    simpa [hlen] using hread
  · rw [← checksumAcc_bytes, hsum]

end Sys2Proof.Machine
end

/-!
# The record types

What the action of each record type is, once per type (R133 to R139): an event of HSR starts its operation or is
refused, a payload of the wrong length ends the HEXRUN, and the other types change nothing or one register.
-/
section

namespace Sys2Proof.Machine

/-! ## Addresses -/

/-- R23, R133: over a base whose lower half is 0 an offset is added without a carry. -/
theorem writeAddress_of_low_zero {abase : Word} (h : abase.extractLsb' 0 16 = 0#16) (off : Half) :
    writeAddress abase off = abase.extractLsb' 16 16 ++ off := by
  have hsplit : abase.extractLsb' 16 16 ++ abase.extractLsb' 0 16 = abase := BitVec.extractLsb'_append_extractLsb'
  have hoff : off.zeroExtend 32 = 0#16 ++ off := BitVec.setWidth_eq_append (by decide)
  rw [h] at hsplit
  conv_lhs => rw [writeAddress, hoff, ← hsplit]
  exact BitVec.append_zero_add_zero_append

/-- R67, R138: an address read big-endian goes out with its bytes reversed. -/
theorem le32_be32 (b0 b1 b2 b3 : Byte) : le32 (be32 b0 b1 b2 b3) = [b3, b2, b1, b0] := by
  have habove {v w k : Nat} (hi : BitVec v) (lo : BitVec w) (h : w ≤ k) :
      (hi ++ lo).extractLsb' k 8 = hi.extractLsb' (k - w) 8 := BitVec.extractLsb'_append_eq_of_le h
  have h3 : (be32 b0 b1 b2 b3).extractLsb' 0 8 = b3 := BitVec.extractLsb'_append_eq_right
  have h2 : (be32 b0 b1 b2 b3).extractLsb' 8 8 = b2 :=
    (habove (b0 ++ b1 ++ b2) b3 (by decide)).trans BitVec.extractLsb'_append_eq_right
  have h1 : (be32 b0 b1 b2 b3).extractLsb' 16 8 = b1 :=
    (habove (b0 ++ b1 ++ b2) b3 (by decide)).trans
      ((habove (b0 ++ b1) b2 (by decide)).trans BitVec.extractLsb'_append_eq_right)
  have h0 : (be32 b0 b1 b2 b3).extractLsb' 24 8 = b0 :=
    (habove (b0 ++ b1 ++ b2) b3 (by decide)).trans
      ((habove (b0 ++ b1) b2 (by decide)).trans BitVec.extractLsb'_append_eq_left)
  rw [le32, h0, h1, h2, h3]

/-! ## Errors and events -/

/-- R207, R144: error entry for an error of HSR or HRV. -/
theorem raise_file_of_doneReady {s : State} (h : s.env.doneReady = true) {e : Err} (he : e.ofCf = false) :
    raise e s = s.fileFailed (Status.report (.error e) s.opCur) := by
  rw [raise, complete_of_doneReady (s := releaseHex (demote e (setFault s))) h, demote, afterError_file he]
  rfl

/-- R142, R170: the operations an event of HSR starts are those of an Idle session. -/
theorem admits_event (op : HostOp) (hop : op = .load ∨ op = .run) (x : Sess) : admits op x = true ↔ x = .idle := by
  obtain rfl | rfl := hop <;> simp [admits]

theorem wiredOperation_of_idle {s : State} (h : s.sess = .idle) {op : HostOp} (hop : op = .load ∨ op = .run)
    (run : State → State) : wiredOperation op run s = run s := by
  obtain ⟨-, hw⟩ | ⟨ha, -⟩ := wiredOperation_cases op run s
  · exact hw
  · rw [(admits_event op hop _).2 h] at ha; cases ha

/-- R142: elsewhere the HEXRUN ends with the refusal of that operation. -/
theorem wiredOperation_of_not_idle {s : State} (h : s.sess ≠ .idle) (hd : s.env.doneReady = true) {op : HostOp}
    (hop : op = .load ∨ op = .run) (run : State → State) :
    wiredOperation op run s = State.reported { s with hsActive := false } (refusedReport op.code s.opCur) := by
  obtain ⟨ha, -⟩ | ⟨-, hw⟩ := wiredOperation_cases op run s
  · exact absurd ((admits_event op hop _).1 ha) h
  · rw [hw, complete_of_doneReady (s := releaseHex s) hd]
    rfl

/-! ## The actions -/

/-- R177, R24: a load's parameters are latched, and SESS is Loading. -/
def loadStarted (address length : Word) (s : State) : State :=
  setSess .loading (loadP1 length (loadP0 address s))

/-- R133, R142: an Idle session starts the load of a Data record. -/
theorem exec_hexData_of_idle {s : State} (h : s.sess = .idle) (offset : Half) (payload : List Byte) :
    exec (.hexData offset payload) s
      = .next
          (push (loadBody (writeAddress s.abase offset) (BitVec.ofNat 32 payload.length))
            (loadStarted (writeAddress s.abase offset) (BitVec.ofNat 32 payload.length) s)) :=
  congrArg Host.Outcome.next (wiredOperation_of_idle h (.inl rfl) _)

/-- R138, R142: an Idle session starts the run of a StartLinearAddress record. -/
theorem exec_hexStartLinearAddress_of_idle {s : State} (h : s.sess = .idle) (offset : Half) (b0 b1 b2 b3 : Byte) :
    exec (.hexStartLinearAddress offset [b0, b1, b2, b3]) s
      = .next (push (runBody (be32 b0 b1 b2 b3)) (loadP0 (be32 b0 b1 b2 b3) s)) :=
  congrArg Host.Outcome.next (wiredOperation_of_idle h (.inr rfl) _)

theorem exec_hexStartLinearAddress_of_length {payload : List Byte} (h : payload.length ≠ 4) (offset : Half)
    (s : State) :
    exec (.hexStartLinearAddress offset payload) s = .next (raise (.malformedRecord .payloadLen) s) := by
  match payload, h with
  | [], _ | [_], _ | [_, _], _ | [_, _, _], _ | _ :: _ :: _ :: _ :: _ :: _, _ => rfl

theorem exec_hexExtendedLinearAddress_of_length {payload : List Byte} (h : payload.length ≠ 2) (offset : Half)
    (s : State) :
    exec (.hexExtendedLinearAddress offset payload) s = .next (raise (.malformedRecord .payloadLen) s) := by
  match payload, h with
  | [], _ | [_], _ | _ :: _ :: _ :: _, _ => rfl

theorem exec_hexEndOfFile (offset : Half) (payload : List Byte) (s : State) :
    exec (.hexEndOfFile offset payload) s = .next (setEofSeen s) := by
  rfl

/-- R135, R136, R139: every type but Data, EndOfFile and the two linear addresses is passed through. -/
theorem exec_recordInstr_of_passedThrough {type : Byte} (h0 : type ≠ 0x00#8) (h1 : type ≠ 0x01#8)
    (h4 : type ≠ 0x04#8) (h5 : type ≠ 0x05#8) (offset : Half) (payload : List Byte) (s : State) :
    exec (recordInstr type offset payload) s = .next s := by
  simp only [recordInstr, h0, h1, h4, h5, if_false]
  split_ifs <;> rfl

/-- R140: the kind of a type that is passed through. -/
theorem recKind_of_passedThrough {type : Byte} (h0 : type ≠ 0x00#8) (h4 : type ≠ 0x04#8) (h5 : type ≠ 0x05#8) :
    recKind type = .passThrough := by
  simp only [recKind, h0, h4, h5, if_false]

/-! ## The yield (R140) -/

/-- The host has taken the record the registers hold, with its kind. -/
def yielded (s : State) : State :=
  { s with out := { s.out with records := s.out.records ++ [(recKind s.recType, recordRegs s)] } }

theorem execMicro_yield_of_recReady {s : State} (h : s.env.recReady = true) :
    execMicro .yield s = .next (jump hexLoop (yielded s)) :=
  congrArg Host.Outcome.next (if_pos h)

theorem execMicro_yield_of_not_recReady {s : State} (h : s.env.recReady = false) :
    execMicro .yield s = .next (hold (.micro .yield) s) :=
  congrArg Host.Outcome.next (if_neg (by simp [h]))

/-! ## The statements -/

/-- Settles O19: the session admits the load, and the base has no lower half to carry from. -/
theorem dataRecordStartsALoad : Obligations.DataRecordStartsALoad :=
  fun offset payload _ hidle =>
    ⟨exec_hexData_of_idle hidle offset payload, fun hlow => writeAddress_of_low_zero hlow offset⟩

/-- Settles O20: four bytes are an address the session admits a run at; any other number raises. -/
theorem startLinearAddressStartsARun : Obligations.StartLinearAddressStartsARun := by
  intro offset s
  refine ⟨fun b0 b1 b2 b3 hidle => ⟨exec_hexStartLinearAddress_of_idle hidle offset b0 b1 b2 b3, ?_⟩,
    fun payload hlen hd => ?_⟩
  · exact congrArg (Config.opRun :: ·) (le32_be32 b0 b1 b2 b3)
  · rw [exec_hexStartLinearAddress_of_length hlen, raise_file_of_doneReady hd rfl]
    rfl

/-- Settles O21: neither event's operation is admitted. -/
theorem eventOutsideIdleIsRefused : Obligations.EventOutsideIdleIsRefused :=
  fun _ _ _ _ _ _ _ hx hd =>
    ⟨congrArg Host.Outcome.next (wiredOperation_of_not_idle hx hd (.inl rfl) _),
      congrArg Host.Outcome.next (wiredOperation_of_not_idle hx hd (.inr rfl) _)⟩

/-- Settles O22: two bytes are the base; any other number raises. -/
theorem extendedLinearAddressSetsTheBase : Obligations.ExtendedLinearAddressSetsTheBase := by
  refine fun offset s => ⟨fun _ _ => rfl, fun payload hlen hd => ?_⟩
  rw [exec_hexExtendedLinearAddress_of_length hlen, raise_file_of_doneReady hd rfl]
  rfl

/-- Settles O23: both types are passed through, yielded with that kind, and read back from their examples. -/
theorem segmentRecordsArePassedThrough : Obligations.SegmentRecordsArePassedThrough := by
  refine ⟨fun offset payload s => ⟨rfl, rfl, ?_, ?_⟩, fun s htype hready => ?_, ?_, ?_⟩
  · exact exec_recordInstr_of_passedThrough (type := 0x02#8) (by decide) (by decide) (by decide) (by decide)
      offset payload s
  · exact exec_recordInstr_of_passedThrough (type := 0x03#8) (by decide) (by decide) (by decide) (by decide)
      offset payload s
  · refine ⟨_, recKind s.recType, execMicro_yield_of_recReady hready, rfl, ?_⟩
    obtain h | h := htype <;> rw [h] <;> rfl
  · exact decodeOfEncodeIsTheInstruction (.hexExtendedSegmentAddress 0x0000#16 [0x10#8, 0x00#8]) rfl
  · exact decodeOfEncodeIsTheInstruction (.hexStartSegmentAddress 0x0000#16 [0x00#8, 0x00#8, 0x01#8, 0x00#8]) rfl

end Sys2Proof.Machine
end

/-!
# The HEX input

HEXRUN's loop, statement by statement: a line is read (R131), decoded, and its record acted upon; then HEXRUN completes,
or the record is yielded and the loop begins again (R130).  Each part is a rule of `Runs` or `Reaches`.
-/
section

namespace Sys2Proof.Machine

/-! ## Steps of a run -/

theorem State.Running.recReady {s : State} (hs : s.Running) : s.env.recReady = true := by
  obtain ⟨⟨-, -, -, hready, -⟩, -⟩ := hs
  exact hready

/-- Where there is nothing to wait for, a step is the meaning of the next statement. -/
theorem State.Running.step_jump {s : State} (hs : s.Running) (st : Stmt) (rest : List Stmt) :
    step (jump (st :: rest) s) = execStmt st (jump rest s) :=
  step_of_prog (s := jump (st :: rest) s) hs.1.1 hs.2 rfl

theorem jump_of_prog {s : State} {l : List Stmt} (h : s.prog = l) : jump l s = s := by
  rw [← h]; rfl

/-! ## The test of EOF_SEEN (R130) -/

theorem execMicro_eofTest_of_eofSeen {s : State} (h : s.eofSeen = true) (hd : s.env.doneReady = true) :
    execMicro .eofTest s = .next (State.reported { s with hsActive := false } (okReport s.opCur)) :=
  congrArg Host.Outcome.next ((if_pos h).trans (complete_of_doneReady (s := releaseHex s) hd .ok))

theorem execMicro_eofTest_of_not_eofSeen {s : State} (h : s.eofSeen = false) : execMicro .eofTest s = .next s :=
  congrArg Host.Outcome.next (if_neg (by simp [h]))

/-- Settles O24: the test of EOF_SEEN completes the HEXRUN or leads to the yield, which waits for the host. -/
theorem recordsAreYieldedUntilEndOfFile : Obligations.RecordsAreYieldedUntilEndOfFile := by
  refine ⟨fun _ offset payload s => ⟨exec_hexEndOfFile offset payload s, rfl⟩, fun s hscript hb hp => ?_⟩
  have htest : step s = execMicro .eofTest (jump [.micro .yield] s) := step_of_prog hscript hb hp
  have hyield : step (jump [.micro .yield] s) = execMicro .yield (jump [] s) :=
    step_of_prog (s := jump [.micro .yield] s) hscript hb rfl
  refine ⟨fun heof hd => ?_, fun heof hready => ?_, fun heof hready => ⟨jump [.micro .yield] s, ?_, rfl, ?_⟩⟩
  · exact htest.trans (execMicro_eofTest_of_eofSeen heof hd)
  · have hgoOn := htest.trans (execMicro_eofTest_of_not_eofSeen heof)
    have htaken := hyield.trans (execMicro_yield_of_recReady hready)
    exact .of_step hgoOn (.of_step htaken (.refl _))
  · exact htest.trans (execMicro_eofTest_of_not_eofSeen heof)
  · exact hyield.trans (execMicro_yield_of_not_recReady hready)

/-! ## Lines of the HEX input (R131) -/

/-- R131: the next line of the HEX input `items` is `line`, and `more` is left after it. -/
inductive NextLine : List HexItem → List Byte → List HexItem → Prop where
  | ended (l : List Byte) (more : List HexItem) (h : Config.charLf ∉ l) :
      NextLine ((l ++ [Config.charLf]).map .char ++ more) (l ++ [Config.charLf]) more
  | unended (line : List Byte) (later : List HexItem) (h : Config.charLf ∉ line) (hne : line ≠ []) :
      NextLine (line.map .char ++ .eos :: later) line (.eos :: later)

/-- The characters `line` have been taken into the line buffer, and `more` of the HEX input is left. -/
def storeLine (line : List Byte) (more : List HexItem) (s : State) : State :=
  let held := line.foldl (fun p c => storeChar p.1 p.2 c) (s.lineBuf, s.lineOvf)
  { s with lineBuf := held.1, lineOvf := held.2, env := { s.env with hx := more } }

theorem storeLine_append (l l' : List Byte) (items more : List HexItem) (s : State) :
    storeLine (l ++ l') more s = storeLine l' more (storeLine l items s) := by
  simp [storeLine, List.foldl_append]

theorem execMicro_nextChar_of_lf {s : State} {items : List HexItem} (h : s.env.hx = .char Config.charLf :: items) :
    execMicro .nextChar s = .next (storeLine [Config.charLf] items s) := by
  simp only [execMicro, microNextChar, h]
  rfl

theorem execMicro_nextChar_of_char {s : State} {c : Byte} {items : List HexItem} (h : s.env.hx = .char c :: items)
    (hc : c ≠ Config.charLf) :
    execMicro .nextChar s = .next (push [.micro .nextChar] (storeLine [c] items s)) := by
  simp only [execMicro, microNextChar, h, hc, if_false]
  rfl

/-- R141: the end of the input ends a line that has a character. -/
theorem execMicro_nextChar_of_eos {s : State} {items : List HexItem} (h : s.env.hx = .eos :: items)
    (hbuf : s.lineBuf ≠ []) : execMicro .nextChar s = .next s := by
  simp only [execMicro, microNextChar, h, hbuf, if_false]

/-- R141: with no character before it the end of the input is TruncatedFile. -/
theorem execMicro_nextChar_of_no_line {s : State} {items : List HexItem} (h : s.env.hx = .eos :: items)
    (hbuf : s.lineBuf = []) (hd : s.env.doneReady = true) :
    execMicro .nextChar s
      = .next (State.fileFailed { s with env := { s.env with hx := items } } (truncatedReport s.opCur)) := by
  have hraise : microNextChar s = raise .truncatedFile { s with env := { s.env with hx := items } } := by
    simp only [microNextChar, h]
    exact if_pos hbuf
  rw [raise_file_of_doneReady (s := { s with env := { s.env with hx := items } }) hd rfl] at hraise
  exact congrArg Host.Outcome.next hraise

/-- The characters of a line but its 0x0A are taken one a step, and NextLine goes on. -/
theorem runs_nextChar_chars {line : List Byte} (hlf : Config.charLf ∉ line) {items : List HexItem} {s t : State}
    (hhx : s.env.hx = line.map .char ++ items) (ht : Runs [.micro .nextChar] (storeLine line items s) t) :
    Runs [.micro .nextChar] s t := by
  induction line generalizing s with
  | nil =>
    have hnil : storeLine [] items s = s := by
      rw [show items = s.env.hx from hhx.symm]; rfl
    exact hnil ▸ ht
  | cons c cs ih =>
    obtain ⟨hc, hcs⟩ := not_or.1 (mt List.mem_cons.2 hlf)
    refine .of_exec (l := [.micro .nextChar]) (u := storeLine [c] (cs.map .char ++ items) s) id (fun _ rest => ?_)
      (ih hcs rfl ht)
    exact execMicro_nextChar_of_char (s := jump rest s) hhx (Ne.symm hc)

/-- R22, R112: the first character of a line is held. -/
theorem storeLine_lineBuf_ne_nil {line : List Byte} (hne : line ≠ []) (more : List HexItem) (s : State) :
    (storeLine line more (microLineStart s)).lineBuf ≠ [] := by
  rw [storeLine, microLineStart, foldl_storeChar]
  simp [hne]

/-- R131: NextLine takes the next line into the emptied buffer. -/
theorem runs_nextLine {s : State} {line : List Byte} {more : List HexItem} (h : NextLine s.env.hx line more) :
    Runs [.micro .lineStart, .micro .nextChar] s (storeLine line more (microLineStart s)) := by
  have hstart : Runs [.micro .lineStart] s (microLineStart s) := .of_exec_one id fun _ _ => rfl
  refine hstart.cons ?_
  generalize hhx : s.env.hx = items at h
  cases h with
  | ended l more hlf =>
    have hlast : Runs [.micro .nextChar] (storeLine l (.char Config.charLf :: more) (microLineStart s))
        (storeLine (l ++ [Config.charLf]) more (microLineStart s)) := by
      rw [storeLine_append l _ (.char Config.charLf :: more)]
      exact .of_exec_one id fun _ rest => execMicro_nextChar_of_lf (s := jump rest _) rfl
    exact runs_nextChar_chars hlf (hhx.trans (by simp)) hlast
  | unended line later hlf hne =>
    refine runs_nextChar_chars hlf hhx (.of_exec_one id fun _ rest => ?_)
    exact execMicro_nextChar_of_eos (s := jump rest _) rfl (storeLine_lineBuf_ne_nil hne (.eos :: later) s)

/-- R131, R141: input that ends where a line would begin. -/
theorem reaches_truncatedFile {s : State} (hs : s.Running) {later : List HexItem} (h : s.env.hx = .eos :: later) :
    Reaches (jump hexLoop s)
      (State.fileFailed { s with lineBuf := [], lineOvf := false, env := { s.env with hx := later } }
        (truncatedReport s.opCur)) := by
  have hstart : step (jump hexLoop s) = .next (jump hexLoop.tail (microLineStart s)) := hs.step_jump _ _
  have hend : step (jump hexLoop.tail (microLineStart s))
      = execMicro .nextChar (jump (hexLoop.drop 2) (microLineStart s)) :=
    State.Running.step_jump (s := microLineStart s) hs _ _
  exact .of_step hstart (.of_step (hend.trans (execMicro_nextChar_of_no_line h rfl hs.doneReady)) (.refl _))

/-! ## Records -/

/-- A line of the HEX input has been read, and its record is in the record registers. -/
def recordRead (r : HexRecord) (line : List Byte) (more : List HexItem) (s : State) : State :=
  writeRecord r (setChecksumAcc 0#8 (storeLine line more (microLineStart s)))

theorem runs_record {s : State} {line : List Byte} {more : List HexItem} {r : HexRecord}
    (hline : NextLine s.env.hx line more) (hr : decodeLine line = .record r) :
    Runs [.micro .lineStart, .micro .nextChar, .decodeLine] s (recordRead r line more s) := by
  refine (runs_nextLine hline).append (.of_exec_one id fun _ rest => ?_)
  have hheld := (boundedLineBufferDecodesTheWholeLine line).2.trans hr
  exact exec_hexrec_of_record hheld (jump rest (storeLine line more (microLineStart s)))

/-- R84, R132: the action is that of the record read. -/
theorem recordRegs_recordRead {r : HexRecord} {line : List Byte} (hr : decodeLine line = .record r)
    (more : List HexItem) {s : State} (hwf : Memory.wf s.recPay = true) :
    recordRegs (recordRead r line more s) = r := by
  obtain ⟨-, hlen, -⟩ := lineBytes_of_record hr
  exact recordRegs_writeRecord hlen (decodeLine_payload_length hr) hwf

theorem recordInstrOf_recordRead {r : HexRecord} {line : List Byte} (hr : decodeLine line = .record r)
    (more : List HexItem) {s : State} (hwf : Memory.wf s.recPay = true) :
    recordInstrOf (recordRead r line more s) = recordInstr r.type r.off r.payload := by
  have hregs := recordRegs_recordRead hr more hwf
  exact congrArg (fun r => recordInstr r.type r.off r.payload) hregs

/-- R130, R140: a record whose action leads to `t` is yielded from there, and the next line is read. -/
theorem reaches_nextRecord {s t : State} {line : List Byte} {more : List HexItem} {r : HexRecord} (hs : s.Running)
    (hline : NextLine s.env.hx line more) (hr : decodeLine line = .record r)
    (hact : Runs [.act] (recordRead r line more s) t) (heof : t.eofSeen = false) :
    (yielded t).Running ∧ Reaches (jump hexLoop s) (jump hexLoop (yielded t)) := by
  have htest : Runs [.micro .eofTest] t t :=
    .of_exec_one id fun _ rest => execMicro_eofTest_of_not_eofSeen (s := jump rest t) heof
  obtain ⟨ht, hrun⟩ := ((runs_record hline hr).append (hact.append htest)) hs
  have hyield : step (jump [.micro .yield] t) = .next (jump hexLoop (yielded t)) :=
    (ht.step_jump _ _).trans (execMicro_yield_of_recReady (s := jump [] t) ht.recReady)
  exact ⟨ht, (hrun [.micro .yield]).trans (.of_step hyield (.refl _))⟩

/-- R135, R136, R139: a record that is passed through. -/
theorem runs_act_of_passedThrough {r : HexRecord} {line : List Byte} (hr : decodeLine line = .record r)
    (h0 : r.type ≠ 0x00#8) (h1 : r.type ≠ 0x01#8) (h4 : r.type ≠ 0x04#8) (h5 : r.type ≠ 0x05#8)
    (more : List HexItem) {s : State} (hwf : Memory.wf s.recPay = true) :
    Runs [.act] (recordRead r line more s) (recordRead r line more s) := by
  refine .of_exec_one id fun _ rest => ?_
  have hinstr : recordInstrOf (jump rest (recordRead r line more s)) = _ := recordInstrOf_recordRead hr more hwf
  rw [execStmt_act, hinstr]
  exact exec_recordInstr_of_passedThrough h0 h1 h4 h5 _ _ _

/-- R130, R134: an EndOfFile record completes the HEXRUN, whatever its payload. -/
theorem reaches_endOfFile {s : State} {line : List Byte} {more : List HexItem} {r : HexRecord} (hs : s.Running)
    (hline : NextLine s.env.hx line more) (hr : decodeLine line = .record r) (htype : r.type = 0x01#8) :
    Reaches (jump hexLoop s)
      (State.reported { setEofSeen (recordRead r line more s) with hsActive := false } (okReport s.opCur)) := by
  have hact : Runs [.act] (recordRead r line more s) (setEofSeen (recordRead r line more s)) := by
    refine .of_exec_one id fun _ rest => ?_
    have hinstr : recordInstrOf (jump rest (recordRead r line more s))
        = .hexEndOfFile r.off (recPayload (recordRead r line more s)) := by
      rw [recordInstrOf, jump_recType, recordRead, writeRecord_recType, htype]
      rfl
    rw [execStmt_act, hinstr]
    rfl
  obtain ⟨ht, hrun⟩ := ((runs_record hline hr).append hact) hs
  refine (hrun [.micro .eofTest, .micro .yield]).trans (.of_step ?_ (.refl _))
  exact (ht.step_jump _ _).trans (execMicro_eofTest_of_eofSeen rfl ht.doneReady)

/-! ## Encoded lines -/

/-- The record `Encode` writes (R119). -/
def encodedRecord (type : Byte) (off : Half) (payload : List Byte) : HexRecord :=
  { len := BitVec.ofNat 8 payload.length, off := off, type := type, payload := payload,
    cks := recordChecksum type off payload }

theorem lf_not_mem_encodeLine (type : Byte) (off : Half) (payload : List Byte) :
    Config.charLf ∉ encodeLine type off payload := by
  intro h
  obtain h | ⟨n, h⟩ := mem_encodeLine h
  · exact absurd h (by decide)
  · have hlf : isTerminator Config.charLf = true := rfl
    rw [h, hexDigit_not_terminator] at hlf
    cases hlf

theorem encodeLine_length (type : Byte) (off : Half) (payload : List Byte) :
    (encodeLine type off payload).length = 2 * (Config.hexOverhead + payload.length) + 1 := by
  rw [encodeLine, List.length_cons, hexDigits_length]
  simp only [recordBytes, Config.hexOverhead, List.length_append, List.length_cons, List.length_nil]
  omega

/-- R110: the terminator of an encoded line is no part of its record. -/
theorem decodeLine_encodeLine_lf (type : Byte) (off : Half) {payload : List Byte}
    (h : payload.length ≤ Config.lenMax) :
    decodeLine (encodeLine type off payload ++ [Config.charLf]) = .record (encodedRecord type off payload) := by
  have hterm : ∀ c ∈ [Config.charLf], isTerminator c = true := by simp [isTerminator]
  refine (decodeLine_congr (lineBytes_congr ?_)).trans (decodeLine_encodeLine type off h)
  exact stripTerminators_append_terminators hterm _

theorem nextLine_encodeLine_lf (type : Byte) (off : Half) (payload : List Byte) (more : List HexItem) :
    NextLine ((encodeLine type off payload ++ [Config.charLf]).map .char ++ more)
      (encodeLine type off payload ++ [Config.charLf]) more :=
  .ended _ _ (lf_not_mem_encodeLine type off payload)

/-- R22: an encoded line and its terminator never set the overflow flag. -/
theorem storeLine_encodeLine_lf (type : Byte) (off : Half) {payload : List Byte} (h : payload.length ≤ Config.lenMax)
    (more : List HexItem) (s : State) :
    storeLine (encodeLine type off payload ++ [Config.charLf]) more (microLineStart s)
      = { s with
          lineBuf := (encodeLine type off payload ++ [Config.charLf]).take Config.lineMax, lineOvf := false,
          env := { s.env with hx := more } } := by
  have hlen : (encodeLine type off payload).length ≤ Config.lineMax := by
    simp only [encodeLine_length, Config.hexOverhead, Config.lineMax, Config.lenMax] at h ⊢
    omega
  have hovf : (((encodeLine type off payload ++ [Config.charLf]).drop Config.lineMax).any fun c => !isTerminator c)
      = false := by
    rw [List.drop_append, List.drop_eq_nil_of_le hlen, List.nil_append, List.any_eq_false]
    intro c hc
    obtain rfl := List.mem_singleton.1 (List.mem_of_mem_drop hc)
    decide
  simp only [storeLine, microLineStart, foldl_storeChar, hovf]

/-! ## HEXRUN -/

/-- HEXRUN has been taken (R130). -/
def hexrunStarted (s : State) : State :=
  { latchOp 0x9#4 s with hsActive := true, eofSeen := false, abase := 0#32 }

theorem exec_hexrun (s : State) : exec .hexrun s = .next (jump hexLoop (hexrunStarted s)) := by
  obtain ⟨-, h⟩ | ⟨h, -⟩ := hostOperation_cases .hexrun id
    (fun t => jump hexLoop { t with hsActive := true, eofSeen := false, abase := 0#32 }) s
  · exact congrArg Host.Outcome.next h
  · cases h

theorem hexrunStarted_running {s : State} (h : s.attended) : (hexrunStarted s).Running := ⟨h, rfl⟩

/-- Settles O39: the first record completes the HEXRUN. -/
theorem hexrunStopsAtEndOfFile : Obligations.HexrunStopsAtEndOfFile := by
  intro s offset payload more hatt hlen hhx
  refine ⟨_, exec_hexrun s, ?_⟩
  have hline : NextLine (hexrunStarted s).env.hx _ more := hhx ▸ nextLine_encodeLine_lf 0x01#8 offset payload more
  have hend := reaches_endOfFile (hexrunStarted_running hatt) hline (decodeLine_encodeLine_lf 0x01#8 offset hlen) rfl
  rw [recordRead, storeLine_encodeLine_lf 0x01#8 offset hlen] at hend
  exact hend

/-- Settles O41: the end of the input at a line's start, in a line, and after a record that is passed through. -/
theorem hexInputEndIsTruncatedFile : Obligations.HexInputEndIsTruncatedFile := by
  refine ⟨fun s later hatt hhx => ?_, fun s later hatt hb hp hhx => ?_, fun s line later hatt hb hp hne hlf hhx => ?_,
    fun s type offset payload later hatt hb hp heof hwf hlen h0 h1 h4 h5 hhx => ?_⟩
  · have hend := reaches_truncatedFile (hexrunStarted_running hatt) hhx
    exact ⟨_, exec_hexrun s, hend⟩
  · have hend := reaches_truncatedFile ⟨hatt, hb⟩ hhx
    rwa [jump_of_prog hp] at hend
  · have hline : NextLine s.env.hx line (.eos :: later) := hhx ▸ .unended line later hlf hne
    obtain ⟨-, hrun⟩ := runs_nextLine hline ⟨hatt, hb⟩
    have hheld : Reaches (jump hexLoop s) _ := hrun [.decodeLine, .act, .micro .eofTest, .micro .yield]
    rwa [jump_of_prog hp] at hheld
  · have hr := decodeLine_encodeLine type offset hlen
    have hline : NextLine s.env.hx (encodeLine type offset payload) (.eos :: later) :=
      hhx ▸ .unended _ later (lf_not_mem_encodeLine type offset payload) (by simp [encodeLine])
    have hact := runs_act_of_passedThrough hr h0 h1 h4 h5 (.eos :: later) hwf
    obtain ⟨hs, hyield⟩ := reaches_nextRecord ⟨hatt, hb⟩ hline hr hact heof
    have hend := hyield.trans (reaches_truncatedFile hs rfl)
    rw [jump_of_prog hp, yielded, recordRegs_recordRead hr _ hwf, recordRead, writeRecord_recType,
      recKind_of_passedThrough h0 h4 h5] at hend
    exact hend

end Sys2Proof.Machine
end

/-!
# The load of a Data record

The LOAD exchange of a load that HSR started (R160, R177), its payload taken from REC_PAY; then the HEXRUN around it.
-/
section

namespace Sys2Proof.Machine

/-! ## The order of independent writes -/

/-- CNT holds `n` (R160). -/
def counted (n : Word) (s : State) : State := { s with cnt := n }

@[simp] theorem counted_hsActive (n : Word) (s : State) : (counted n s).hsActive = s.hsActive := rfl
@[simp] theorem counted_recPay (n : Word) (s : State) : (counted n s).recPay = s.recPay := rfl
@[simp] theorem counted_cnt (n : Word) (s : State) : (counted n s).cnt = n := rfl
@[simp] theorem emits_hsActive (os : List TpOut) (s : State) : (emits os s).hsActive = s.hsActive := rfl
@[simp] theorem emits_recPay (os : List TpOut) (s : State) : (emits os s).recPay = s.recPay := rfl
@[simp] theorem emits_cnt (os : List TpOut) (s : State) : (emits os s).cnt = s.cnt := rfl
@[simp] theorem answered_hsActive (b : Byte) (more : List Byte) (s : State) :
    (answered b more s).hsActive = s.hsActive := rfl
@[simp] theorem answered_cnt (b : Byte) (more : List Byte) (s : State) : (answered b more s).cnt = s.cnt := rfl
@[simp] theorem answered_recPay (b : Byte) (more : List Byte) (s : State) :
    (answered b more s).recPay = s.recPay := rfl

theorem counted_counted (n n' : Word) (s : State) : counted n' (counted n s) = counted n' s := rfl

theorem counted_emits (n : Word) (os : List TpOut) (s : State) : counted n (emits os s) = emits os (counted n s) := rfl

theorem counted_answered (n : Word) (b : Byte) (more : List Byte) (s : State) :
    counted n (answered b more s) = answered b more (counted n s) := rfl

theorem answered_emits (b : Byte) (more : List Byte) (os : List TpOut) (s : State) :
    answered b more (emits os s) = emits os (answered b more s) := rfl

theorem answered_answered (b b' : Byte) (more more' : List Byte) (s : State) :
    answered b' more' (answered b more s) = answered b' more' s := rfl

theorem txAll_append (bs bs' : List Byte) : txAll (bs ++ bs') = txAll bs ++ txAll bs' := List.map_append

theorem txAll_cons (b : Byte) (bs : List Byte) : txAll (b :: bs) = .tx b :: txAll bs := rfl

/-! ## The payload (R160) -/

theorem microPayload_of_done {n : Word} {s : State} (h : s.cnt = n) : microPayload n s = .next s :=
  if_pos h

/-- R142, R160: the payload of a load that HSR started is in REC_PAY. -/
theorem microPayload_of_wired {n : Word} {s : State} (h : s.cnt ≠ n) (hhs : s.hsActive = true)
    (hidx : s.cnt.toNat < Config.recPaySize) :
    microPayload n s
      = .next (push [.micro (.sendPay (Memory.read s.recPay s.cnt.toNat)), .micro (.payload n)] s) := by
  simp only [microPayload, h, payloadByte, hhs, hidx, if_true, if_false]

theorem runs_sendPay (b : Byte) (s : State) :
    Runs [.micro (.sendPay b)] s (emits [.tx b] (counted (s.cnt + 1#32) s)) :=
  .of_exec_one id fun hs rest => congrArg _ (send_of_txReady (s := jump rest s) hs.txReady b _ _)

/-- R160: the `k` payload bytes from CNT up are sent in index order. -/
theorem runs_wiredPayload {n : Word} (hn : n.toNat ≤ Config.recPaySize) (k : Nat) {s : State}
    (hhs : s.hsActive = true) (hk : s.cnt.toNat + k = n.toNat) :
    Runs [.micro (.payload n)] s (emits (txAll (Memory.readBytes s.recPay s.cnt.toNat k)) (counted n s)) := by
  induction k generalizing s with
  | zero =>
    have hcnt : s.cnt = n := BitVec.eq_of_toNat_eq hk
    have hend : emits (txAll (Memory.readBytes s.recPay s.cnt.toNat 0)) (counted n s) = s := by
      rw [← hcnt]
      exact emits_nil s
    rw [hend]
    exact .of_exec_one id fun _ rest => microPayload_of_done (s := jump rest s) hcnt
  | succ k ih =>
    have hne : s.cnt ≠ n := by rintro rfl; omega
    have hidx : s.cnt.toNat < Config.recPaySize := by omega
    have hcnt : (s.cnt + 1#32).toNat = s.cnt.toNat + 1 := by
      have := n.isLt
      simp only [BitVec.toNat_add, BitVec.toNat_ofNat]
      omega
    have hrest : Runs [.micro (.payload n)]
        (emits [.tx (Memory.read s.recPay s.cnt.toNat)] (counted (s.cnt + 1#32) s))
        (emits (txAll (Memory.readBytes s.recPay (s.cnt + 1#32).toNat k))
          (counted n (emits [.tx (Memory.read s.recPay s.cnt.toNat)] (counted (s.cnt + 1#32) s)))) :=
      ih hhs (show (s.cnt + 1#32).toNat + k = n.toNat by omega)
    rw [hcnt, counted_emits, counted_counted, emits_append] at hrest
    refine .of_exec (l := [.micro (.sendPay (Memory.read s.recPay s.cnt.toNat)), .micro (.payload n)]) id
      (fun _ rest => microPayload_of_wired (s := jump rest s) hne hhs hidx) ?_
    exact (runs_sendPay _ s).cons hrest

/-! ## The exchange (R158, R177) -/

/-- The LOAD exchange as far as its last response, `ack`, which has been read (R177). -/
def wiredLoadAnswered (address length : Word) (ack : Byte) (more : List Byte) (s : State) : State :=
  emits (txAll (Config.opLoad :: (le32 address ++ le32 length ++ Memory.readBytes s.recPay 0 length.toNat)))
    (answered ack more (counted length (recordCmd Config.opLoad s)))

/-- R158: three responses that are not compared, both parameters, the payload, the response to be compared. -/
theorem runs_wiredLoadTail {s : State} (address length : Word) {x y z ack : Byte} {more : List Byte}
    (hhs : s.hsActive = true) (hlen : length.toNat ≤ Config.recPaySize)
    (hrx : s.env.rx = x :: y :: z :: ack :: more) (hx : x ≠ Config.errInd) (hy : y ≠ Config.errInd)
    (hz : z ≠ Config.errInd) (hack : ack ≠ Config.errInd) :
    Runs
      (responseTest true ++ sendU32 address ++ responseTest true ++ sendU32 length ++ responseTest true
        ++ [.micro .cntZero, .micro (.payload length)] ++ responseTest true)
      (emits [.tx Config.opLoad] (recordCmd Config.opLoad s)) (wiredLoadAnswered address length ack more s) := by
  have hfirst : Runs (responseTest true) (emits [.tx Config.opLoad] (recordCmd Config.opLoad s)) _ :=
    runs_responseTest true hrx hx
  have hparams := (hfirst.append (runs_sendU32 address _)).append
    (runs_responseTest true (b := y) (more := z :: ack :: more) rfl hy)
  have hthird := (hparams.append (runs_sendU32 length _)).append
    (runs_responseTest true (b := z) (more := ack :: more) rfl hz)
  have hzero (u : State) : Runs [.micro .cntZero] u (counted 0#32 u) := .of_exec_one id fun _ _ => rfl
  have hpay := (hthird.append (hzero _)).append
    (runs_wiredPayload hlen length.toNat (by simpa using hhs) (by simp))
  have hlast := hpay.append (runs_responseTest true (b := ack) (more := more) rfl hack)
  simpa [counted_emits, counted_answered, counted_counted, answered_emits, answered_answered, emits_append,
    txAll_append, txAll_cons, wiredLoadAnswered] using hlast

/-- R90, R157: an acknowledgement that is the expected one. -/
theorem runs_ackOk {s : State} (h : s.rtByte = Config.ackOk) : Runs [.run .ackOk] s s :=
  .of_exec_one id fun _ rest => congrArg Host.Outcome.next (by rw [jump_rtByte, h, expect_self])

/-- R177: a wired LOAD exchange that the device acknowledges. -/
theorem runs_wiredLoad {s : State} (address length : Word) {x y z : Byte} {more : List Byte}
    (hhs : s.hsActive = true) (hlen : length.toNat ≤ Config.recPaySize)
    (hrx : s.env.rx = x :: y :: z :: Config.ackOk :: more) (hx : x ≠ Config.errInd) (hy : y ≠ Config.errInd)
    (hz : z ≠ Config.errInd) :
    Runs [.run (.opLoad address length)] s (wiredLoadAnswered address length Config.ackOk more s) :=
  runs_sendOpcode (.opLoad address length) Config.opLoad _ (fun _ => rfl)
    ((runs_wiredLoadTail address length hhs hlen hrx hx hy hz (by decide)).append (runs_ackOk rfl))

/-- The load of a Data record has run to its end, in the session it began in (R142, R177). -/
def wiredLoaded (address length : Word) (more : List Byte) (s : State) : State :=
  { s with
    sess := .idle, cnt := length, lastCmd := Config.opCr, lastCmdV := true, winCnt := 0, rtByte := Config.opCr,
    rd2Lf := Config.chLf, rd2Prompt := Config.chPrompt, env := { s.env with rx := more },
    out :=
      { s.out with
        tp := s.out.tp
          ++ txAll
              (Config.opLoad :: (le32 address ++ le32 length ++ Memory.readBytes s.recPay 0 length.toNat
                ++ [Config.opCr])) } }

/-- R60: a load leaves the record registers as they are. -/
theorem recordRegs_wiredLoaded (address length : Word) (more : List Byte) (s : State) :
    recordRegs (wiredLoaded address length more (loadStarted address length s)) = recordRegs s := rfl

theorem runs_wiredLoadBody {s : State} (address length : Word) {x y z : Byte} {more : List Byte}
    (hhs : s.hsActive = true) (hlen : length.toNat ≤ Config.recPaySize)
    (hrx : s.env.rx = x :: y :: z :: Config.ackOk :: Config.opCr :: Config.chLf :: Config.chPrompt :: more)
    (hx : x ≠ Config.errInd) (hy : y ≠ Config.errInd) (hz : z ≠ Config.errInd) :
    Runs (loadBody address length) s (wiredLoaded address length more s) := by
  have hload := runs_wiredLoad address length hhs hlen hrx hx hy hz
  have hbody : Runs (loadBody address length) s _ :=
    hload.cons ((runs_opCr (more := more) rfl).cons (runs_setSess .idle _))
  convert hbody using 1
  simp [wiredLoaded, wiredLoadAnswered, setSess, crRead, answered, emits, recordCmd, counted, txAll]

/-- R133, R142: the action of a Data record in an Idle session, its load run to its end. -/
theorem runs_act_of_data {s : State} {offset : Half} {payload : List Byte} {x y z : Byte} {more : List Byte}
    (hinstr : recordInstrOf s = .hexData offset payload) (hidle : s.sess = .idle) (hhs : s.hsActive = true)
    (hlen : payload.length ≤ Config.recPaySize)
    (hrx : s.env.rx = x :: y :: z :: Config.ackOk :: Config.opCr :: Config.chLf :: Config.chPrompt :: more)
    (hx : x ≠ Config.errInd) (hy : y ≠ Config.errInd) (hz : z ≠ Config.errInd) :
    Runs [.act] s
      (wiredLoaded (writeAddress s.abase offset) (BitVec.ofNat 32 payload.length) more
        (loadStarted (writeAddress s.abase offset) (BitVec.ofNat 32 payload.length) s)) := by
  have hfits : (BitVec.ofNat 32 payload.length).toNat ≤ Config.recPaySize := (Nat.mod_le _ _).trans hlen
  refine .of_exec (u := loadStarted (writeAddress s.abase offset) (BitVec.ofNat 32 payload.length) s) id
    (fun _ rest => ?_) (runs_wiredLoadBody _ _ hhs hfits hrx hx hy hz)
  have hjump : recordInstrOf (jump rest s) = .hexData offset payload := hinstr
  rw [execStmt_act, hjump]
  exact exec_hexData_of_idle (s := jump rest s) hidle offset payload

/-! ## HEXRUN over a Data record -/

/-- A Data record has been read, loaded, and yielded (R133, R140, R142). -/
def dataLoaded (r : HexRecord) (line : List Byte) (items : List HexItem) (more : List Byte) (s : State) : State :=
  let address := writeAddress s.abase r.off
  let length := BitVec.ofNat 32 r.payload.length
  yielded (wiredLoaded address length more (loadStarted address length (recordRead r line items s)))

/-- R133, R142: in an Idle session HEXRUN loads a Data record, yields it, and goes on with the next line. -/
theorem reaches_nextRecord_of_data {s : State} {line : List Byte} {items : List HexItem} {r : HexRecord}
    {x y z : Byte} {more : List Byte} (hs : s.Running) (hline : NextLine s.env.hx line items)
    (hr : decodeLine line = .record r) (htype : r.type = 0x00#8) (hwf : Memory.wf s.recPay = true)
    (hidle : s.sess = .idle) (hhs : s.hsActive = true) (heof : s.eofSeen = false)
    (hrx : s.env.rx = x :: y :: z :: Config.ackOk :: Config.opCr :: Config.chLf :: Config.chPrompt :: more)
    (hx : x ≠ Config.errInd) (hy : y ≠ Config.errInd) (hz : z ≠ Config.errInd) :
    (dataLoaded r line items more s).Running
      ∧ Reaches (jump hexLoop s) (jump hexLoop (dataLoaded r line items more s)) := by
  have hinstr : recordInstrOf (recordRead r line items s) = .hexData r.off r.payload := by
    rw [recordInstrOf_recordRead hr items hwf, htype]
    rfl
  have hact := runs_act_of_data hinstr hidle hhs (decodeLine_payload_length hr) hrx hx hy hz
  exact reaches_nextRecord hs hline hr hact heof

/-- Settles O40: the Data record is loaded and yielded, and the EndOfFile record after it completes. -/
theorem hexrunLoadsADataRecord : Obligations.HexrunLoadsADataRecord := by
  intro s offset payload x y z more hatt hidle hwf hlen hhx hx hy hz hrx
  refine ⟨_, exec_hexrun s, ?_⟩
  have hdata := decodeLine_encodeLine_lf 0x00#8 offset hlen
  have hline : NextLine (hexrunStarted s).env.hx _ _ := hhx ▸ nextLine_encodeLine_lf 0x00#8 offset payload _
  obtain ⟨hs, hload⟩ :=
    reaches_nextRecord_of_data (hexrunStarted_running hatt) hline hdata rfl hwf hidle rfl rfl hrx hx hy hz
  have hlast := nextLine_encodeLine_lf 0x01#8 0x0000#16 [] []
  rw [List.append_nil] at hlast
  have hend := reaches_endOfFile hs hlast (decodeLine_encodeLine_lf 0x01#8 0x0000#16 (Nat.zero_le _)) rfl
  have hcount : (BitVec.ofNat 32 payload.length).toNat = payload.length :=
    (BitVec.toNat_ofNat _ 32).trans (Nat.mod_eq_of_lt (by omega))
  have hpay := Memory.readBytes_writeBytes hwf hlen
  have haddr : writeAddress 0#32 offset = 0#16 ++ offset := writeAddress_of_low_zero (by decide) offset
  have hregs := fun items => recordRegs_recordRead (s := hexrunStarted s) hdata items hwf
  convert hload.trans hend using 1
  simp only [dataLoaded, yielded, recordRegs_wiredLoaded, hregs]
  simp only [wiredLoaded, encodedRecord, hcount]
  simp [recordRead, storeLine_encodeLine_lf _ _ hlen,
    storeLine_encodeLine_lf 0x01#8 0x0000#16 (payload := []) (Nat.zero_le _), writeRecord, setChecksumAcc,
    loadStarted, setSess, loadP0, loadP1, hexrunStarted, latchOp, setEofSeen, State.reported, hpay, haddr, recKind,
    hidle, Memory.writeBytes]
  decide

end Sys2Proof.Machine
end

/-!
# Runs that end their operation

`Ends l s t`: in a state with nothing to wait for, the statements `l` lead from `s` to `t`, and whatever statements
follow them are dropped, as error entry does (R207, R210).  `Runs` and `Ends` together say what a row of statements can
come to; an instruction's `exec` is the first step of such a run.
-/
section

namespace Sys2Proof.Machine

/-! ## Statements that drop what follows them -/

/-- The statements `l` lead from `s` to `t`, whatever statements follow them. -/
def Ends (l : List Stmt) (s t : State) : Prop := s.Running → ∀ rest, Reaches (jump (l ++ rest) s) t

theorem Runs.append_ends {l m : List Stmt} {s u t : State} (h : Runs l s u) (k : Ends m u t) : Ends (l ++ m) s t :=
  fun hs rest => by
    obtain ⟨hu, hsu⟩ := h hs
    rw [List.append_assoc]
    exact (hsu (m ++ rest)).trans (k hu rest)

theorem Ends.append {l : List Stmt} {s t : State} (h : Ends l s t) (m : List Stmt) : Ends (l ++ m) s t :=
  fun hs rest => by
    rw [List.append_assoc]
    exact h hs (m ++ rest)

/-- A statement whose step leaves the statements `l` to run first. -/
theorem Ends.of_exec {st : Stmt} {l : List Stmt} {s u t : State} (hu : s.Running → u.Running)
    (he : s.Running → ∀ rest, execStmt st (jump rest s) = .next (jump (l ++ rest) u)) (ht : Ends l u t) :
    Ends [st] s t :=
  fun hs rest => .of_step ((hs.step_jump st rest).trans (he hs rest)) (ht (hu hs) rest)

/-- A statement whose one step drops what follows it. -/
theorem Ends.of_exec_one {st : Stmt} {s t : State}
    (he : s.Running → ∀ rest, execStmt st (jump rest s) = .next t) : Ends [st] s t :=
  fun hs rest => .of_step ((hs.step_jump st rest).trans (he hs rest)) (.refl t)

/-- A wire opcode: its byte is sent and recorded, then its exchange ends (R158). -/
theorem ends_sendOpcode {s t : State} (i : Instr) (op : Byte) (tail : List Stmt)
    (hi : ∀ u, exec i u = .next (sendOpcode op i tail u)) (ht : Ends tail (emits [.tx op] (recordCmd op s)) t) :
    Ends [.run i] s t := by
  refine .of_exec (u := emits [.tx op] (recordCmd op s)) id (fun hs rest => (hi _).trans (congrArg _ ?_)) ht
  exact send_of_txReady (s := jump rest s) hs.txReady op _ _

/-! ## Where such a run begins -/

theorem Runs.reaches {l rest : List Stmt} {s t : State} (h : Runs l s t) (hs : s.Running)
    (hp : s.prog = l ++ rest) : Reaches s (jump rest t) := by
  have hrun := (h hs).2 rest
  rwa [jump_of_prog hp] at hrun

theorem Ends.reaches {l rest : List Stmt} {s t : State} (h : Ends l s t) (hs : s.Running)
    (hp : s.prog = l ++ rest) : Reaches s t := by
  have hrun := h hs rest
  rwa [jump_of_prog hp] at hrun

/-- A run that leaves an instruction behind begins with what the instruction answers. -/
theorem exec_of_reaches {i : Instr} {s t : State} (hs : s.Running) (h : Reaches (jump (.run i :: s.prog) s) t)
    (hne : jump (.run i :: s.prog) s ≠ t) : ∃ u, exec i s = .next u ∧ Reaches u t := by
  obtain ⟨_ | k, hk⟩ := h
  · cases hk; exact absurd rfl hne
  · obtain ⟨u, hu, hrun⟩ := step_of_run core hk
    exact ⟨u, (hs.step_jump (.run i) s.prog).symm.trans hu, k, hrun⟩

theorem Runs.exec {i : Instr} {s t : State} (h : Runs [.run i] s t) (hs : s.Running) :
    ∃ u, exec i s = .next u ∧ Reaches u (jump s.prog t) := by
  obtain ⟨-, hrun⟩ := h hs
  exact exec_of_reaches hs (hrun s.prog) fun he => List.cons_ne_self _ _ (congrArg State.prog he)

theorem Ends.exec {i : Instr} {s t : State} (h : Ends [.run i] s t) (hs : s.Running) (ht : t.busy = false) :
    ∃ u, exec i s = .next u ∧ Reaches u t :=
  exec_of_reaches hs (h hs s.prog) fun he => by
    rw [← he, jump_busy, hs.2] at ht
    cases ht

/-! ## Reads with no byte waiting, and comparisons that fail -/

/-- R153: TP's timeout ends a blocking read in Timeout(Blocking). -/
theorem ends_readOne_of_timeout {st : Stmt} {k : Byte → State → State} {s : State}
    (he : ∀ u, execStmt st u = .next (readOne st k u)) (hrx : s.env.rx = []) (ht : s.env.rxTmo = true)
    (hc : Config.tpHasTimeout = true) :
    Ends [st] s (State.failed { s with env := { s.env with rxTmo := false } } (timeoutReport 1#3 s.opCur)) := by
  refine .of_exec_one fun hs rest => ?_
  rw [he, readOne_of_timeout (s := jump rest s) hrx ht hc, raise_of_doneReady]
  exacts [rfl, hs.doneReady, rfl]

/-- R157: a comparison that fails. -/
theorem ends_expect {st : Stmt} {e a : Byte} {s : State} (h : a ≠ e)
    (he : ∀ rest, execStmt st (jump rest s) = .next (expect e a (jump rest s))) :
    Ends [st] s (State.failed s (protocolReport e a s.opCur)) :=
  .of_exec_one fun hs rest => (he rest).trans (congrArg _ (expect_of_ne (s := jump rest s) hs.doneReady h))

/-- R90, R157: an acknowledgement that is not the expected one. -/
theorem ends_ackOk {s : State} (h : s.rtByte ≠ Config.ackOk) :
    Ends [.run .ackOk] s (State.failed s (protocolReport Config.ackOk s.rtByte s.opCur)) :=
  ends_expect h fun _ => rfl

theorem ends_ackEchoBaud {s : State} (h : s.rtByte ≠ Config.opBaud) :
    Ends [.run .ackEchoBaud] s (State.failed s (protocolReport Config.opBaud s.rtByte s.opCur)) :=
  ends_expect h fun _ => rfl

end Sys2Proof.Machine
end

/-!
# The response-test and the CR sequence

Each outcome of the two shared reads (R155, R161) is a rule of `Runs` or `Ends`, or the state they wait in.
-/
section

namespace Sys2Proof.Machine

/-! ## The response-test (R155) -/

/-- R154: the window is slept in full. -/
theorem runs_window (s : State) : Runs [.micro .sleep, .micro .window] s { s with winCnt := 0 } := by
  have hsleep : Runs [.micro .sleep] s { s with winCnt := Config.winTicks } := .of_exec_one id fun _ _ => rfl
  exact hsleep.cons (.of_exec_one id fun _ _ => rfl)

/-- R155: silence at a mandatory test. -/
theorem ends_responseTest_of_silence {s : State} (hrx : s.env.rx = []) :
    Ends (responseTest true) s (State.failed { s with winCnt := 0 } (timeoutReport 0#3 s.opCur)) := by
  refine (runs_window s).append_ends (m := [.micro (.poll true)]) (.of_exec_one fun hs rest => ?_)
  have hpoll : microPoll true (jump rest { s with winCnt := 0 })
      = raise .timeoutWindow (jump rest { s with winCnt := 0 }) := by
    simp [microPoll, hrx]
  exact congrArg _ (hpoll.trans (raise_of_doneReady (s := jump rest { s with winCnt := 0 }) hs.doneReady rfl))

/-- R155, R173: silence in connect. -/
theorem ends_responseTest_of_connect_silence {s : State} (hrx : s.env.rx = []) :
    Ends (responseTest false) s (jump [.micro .connectTop] { s with winCnt := 0 }) := by
  refine (runs_window s).append_ends (m := [.micro (.poll false)]) (.of_exec_one fun _ rest => ?_)
  simp [execMicro, microPoll, hrx, jump]

/-- R155: ERR_IND at a response-test leads to the read of its status byte. -/
theorem reaches_errResponse {s : State} (hs : s.Running) {mandatory : Bool} {rest : List Stmt}
    (hp : s.prog = responseTest mandatory ++ rest) {more : List Byte} (hrx : s.env.rx = Config.errInd :: more) :
    Reaches s (jump (.run .errResponse :: rest) (answered Config.errInd more s)) := by
  have hwindow := (runs_window s).reaches (rest := .micro (.poll mandatory) :: rest) hs hp
  have hpoll : microPoll mandatory (jump rest { s with winCnt := 0 })
      = jump (.run .errResponse :: rest) (answered Config.errInd more s) := by
    simp [microPoll, hrx, jump, push, answered]
  have hstep := State.Running.step_jump (s := { s with winCnt := 0 }) hs (.micro (.poll mandatory)) rest
  exact hwindow.trans (.of_step (hstep.trans (congrArg Host.Outcome.next hpoll)) (.refl _))

/-- R205: the status byte, whatever it is. -/
theorem ends_errResponse {s : State} {c : Byte} {more : List Byte} (hrx : s.env.rx = c :: more) :
    Ends [.run .errResponse] s (State.failed { s with env := { s.env with rx := more } } (deviceReport c s.opCur)) :=
  .of_exec_one fun hs rest => (errorIndicatorEndsInDeviceError (jump rest s) hs.doneReady).1 c more hrx

/-- Settles O8: silence, an ordinary byte, and ERR_IND with a status byte, with TP's timeout, and with neither. -/
theorem responseTestScreensOneByte : Obligations.ResponseTestScreensOneByte := by
  intro s mandatory rest hatt hb hp
  have hs : s.Running := ⟨hatt, hb⟩
  refine ⟨fun hrx hm => ?_, fun hrx hm => ?_, fun b more hrx hne => ?_, fun c more hrx => ?_, fun hrx ht => ?_⟩
  · subst hm
    exact (ends_responseTest_of_silence hrx).reaches hs hp
  · subst hm
    exact (ends_responseTest_of_connect_silence hrx).reaches hs hp
  · exact (runs_responseTest mandatory hrx hne).reaches hs hp
  · have hstatus : Ends [.run .errResponse] (answered Config.errInd (c :: more) s) _ := ends_errResponse rfl
    exact (reaches_errResponse hs hp hrx).trans (hstatus hs rest)
  · have hread := reaches_errResponse hs hp hrx
    split
    · next hc =>
      have htimeout : Ends [.run .errResponse] (answered Config.errInd [] s) _ :=
        ends_readOne_of_timeout exec_errResponse rfl ht hc
      exact hread.trans (htimeout hs rest)
    · exact hread

/-! ## The CR sequence (R161) -/

theorem exec_crSequence_of_cr {s : State} (h : s.rtByte = Config.opCr) :
    exec .crSequence s
      = .next (jump ([.micro .readLf, .micro .readPrompt, .micro .expectPair] ++ s.prog) s) :=
  congrArg Host.Outcome.next (if_pos h)

theorem exec_crSequence_of_ne {s : State} (h : s.rtByte ≠ Config.opCr) :
    exec .crSequence s = .next (expect Config.opCr s.rtByte s) :=
  congrArg Host.Outcome.next (if_neg h)

theorem runs_readLf {s : State} {b : Byte} {more : List Byte} (hrx : s.env.rx = b :: more) :
    Runs [.micro .readLf] s { s with rd2Lf := b, env := { s.env with rx := more } } :=
  .of_exec_one id fun _ rest => congrArg _ (readOne_of_byte (s := jump rest s) hrx _ _)

theorem runs_readPrompt {s : State} {b : Byte} {more : List Byte} (hrx : s.env.rx = b :: more) :
    Runs [.micro .readPrompt] s { s with rd2Prompt := b, env := { s.env with rx := more } } :=
  .of_exec_one id fun _ rest => congrArg _ (readOne_of_byte (s := jump rest s) hrx _ _)

/-- R161: the first byte is compared first. -/
theorem ends_expectPair_of_lf {s : State} (h : s.rd2Lf ≠ Config.chLf) :
    Ends [.micro .expectPair] s (State.failed s (protocolReport Config.chLf s.rd2Lf s.opCur)) :=
  ends_expect h fun _ => congrArg Host.Outcome.next (if_neg h)

theorem ends_expectPair_of_prompt {s : State} (hlf : s.rd2Lf = Config.chLf) (h : s.rd2Prompt ≠ Config.chPrompt) :
    Ends [.micro .expectPair] s (State.failed s (protocolReport Config.chPrompt s.rd2Prompt s.opCur)) :=
  ends_expect h fun _ => congrArg Host.Outcome.next (if_pos hlf)

theorem runs_expectPair {s : State} (hlf : s.rd2Lf = Config.chLf) (h : s.rd2Prompt = Config.chPrompt) :
    Runs [.micro .expectPair] s s :=
  .of_exec_one id fun _ rest => congrArg Host.Outcome.next
    ((if_pos hlf).trans (by rw [jump_rd2Prompt, h, expect_self]))

/-- Settles O9: the first byte, the two others in order, and the end of either read by TP's timeout. -/
theorem crSequenceIsCheckedInOrder : Obligations.CrSequenceIsCheckedInOrder := by
  intro s hatt hb
  have hs : s.Running := ⟨hatt, hb⟩
  refine ⟨fun hcr => ?_, fun x y more hcr hrx => ⟨_, exec_crSequence_of_cr hcr, ?_⟩,
    fun hcr ht => ⟨fun hrx => ⟨_, exec_crSequence_of_cr hcr, ?_⟩, fun x hrx => ⟨_, exec_crSequence_of_cr hcr, ?_⟩⟩⟩
  · rw [exec_crSequence_of_ne hcr, expect_of_ne hs.doneReady hcr]
  · have hread := (runs_readLf hrx).append (runs_readPrompt (b := y) (more := more) rfl)
    by_cases hx : x = 0x0A#8
    · subst hx
      by_cases hy : y = 0x3E#8
      · subst hy
        simp only [ne_eq, not_true, if_false]
        exact ((hread.append (runs_expectPair rfl rfl)) hs).2 s.prog
      · simp only [hy, ne_eq, not_true, not_false_eq_true, if_true, if_false]
        exact (hread.append_ends (ends_expectPair_of_prompt rfl hy)) hs s.prog
    · simp only [hx, ne_eq, not_false_eq_true, if_true]
      exact (hread.append_ends (ends_expectPair_of_lf hx)) hs s.prog
  · split
    · next hc =>
      have hlf : Ends [.micro .readLf] s _ := ends_readOne_of_timeout (fun _ => rfl) hrx ht hc
      exact (hlf.append [.micro .readPrompt, .micro .expectPair]) hs s.prog
    · exact .refl _
  · have hlf := runs_readLf hrx
    split
    · next hc =>
      have hprompt : Ends [.micro .readPrompt] { s with rd2Lf := x, env := { s.env with rx := [] } } _ :=
        ends_readOne_of_timeout (fun _ => rfl) rfl ht hc
      exact ((hlf.append_ends hprompt).append [.micro .expectPair]) hs s.prog
    · exact (hlf hs).2 ([.micro .readPrompt, .micro .expectPair] ++ s.prog)

end Sys2Proof.Machine
end

/-!
# The opcode's step, open and close

What a wire opcode's first step does (R150), and the two host operations that only ask TP (R159).
-/
section

namespace Sys2Proof.Machine

/-! ## The opcode (R150) -/

/-- R87, R158: a wire opcode's step sends the first byte of its frame and leaves an exchange. -/
theorem exec_of_frameHeader {i : Instr} {op : Byte} {params : List Byte} (h : frameHeader i = op :: params) :
    ∃ exchange, ∀ s, exec i s = .next (sendOpcode op i exchange s) := by
  unfold frameHeader at h
  split at h <;> cases h <;> exact ⟨_, fun _ => rfl⟩

/-- Settles O14: the step sends and records the opcode, or holds. -/
theorem opcodeByteIsSentAndRecorded : Obligations.OpcodeByteIsSentAndRecorded := by
  intro i op params s hi
  obtain ⟨exchange, hexec⟩ := exec_of_frameHeader hi
  rw [hexec]
  obtain ⟨hready, hsend⟩ | ⟨hready, hsend⟩ := sendOpcode_cases op i exchange s
  · exact ⟨fun _ => ⟨exchange, congrArg _ hsend⟩, fun h => by simp [hready] at h⟩
  · exact ⟨fun h => by simp [hready] at h, fun _ => congrArg _ hsend⟩

/-! ## open and close -/

/-- R170: an operation the session admits runs. -/
theorem hostOperation_of_admits {op : HostOp} {s : State} (h : admits op s.sess = true) (latch run : State → State) :
    hostOperation op latch run s = run (latch (latchOp op.code s)) := by
  obtain ⟨-, hop⟩ | ⟨ha, -⟩ := hostOperation_cases op latch run s
  · exact hop
  · rw [h] at ha; cases ha

theorem runs_clearLast (s : State) : Runs [.micro .clearLast] s (clearLastCmd s) :=
  .of_exec_one id fun _ _ => rfl

/-- R171: the statements of open up to `complete(OK)`. -/
def openBody (rate : Word) : List Stmt :=
  [.micro (.tpOpen rate), .micro (.setBaud rate), .micro .clearLast, .micro (.setSess .disconnected)]

/-- A Closed session admits open (R170). -/
theorem exec_hostOpen {s : State} (h : s.sess = .closed) (rate : Word) :
    exec (.hostOpen rate) s
      = .next (jump (openBody rate ++ [.micro .completeOk]) (loadP0 rate (latchOp 0x0#4 s))) :=
  congrArg Host.Outcome.next (hostOperation_of_admits (by simp [admits, h]) _ _)

/-- A session that is Disconnected, Idle or Running admits close (R170). -/
theorem exec_hostClose {s : State} (h : s.sess = .disconnected ∨ s.sess = .idle ∨ s.sess = .running) :
    exec .hostClose s
      = .next (jump [.micro .tpClose, .micro (.setSess .closed), .micro .completeOk] (latchOp 0x1#4 s)) := by
  have hadmits : admits .close s.sess = true := by
    obtain h | h | h := h <;> simp [admits, h]
  exact congrArg Host.Outcome.next (hostOperation_of_admits hadmits _ _)

/-- Settles O28: TP's acknowledgement, then one statement for each register. -/
theorem openCompletes : Obligations.OpenCompletes := by
  intro s rate queue acks hatt hclosed hacks
  refine ⟨_, exec_hostOpen hclosed rate, ?_⟩
  have hopen : Runs [.micro (.tpOpen rate)] (loadP0 rate (latchOp 0x0#4 s)) _ := runs_tpOpen rate hacks
  have hrate := (hopen.append (runs_setBaud rate _)).append (runs_clearLast _)
  have hbody : Runs (openBody rate) _ _ := hrate.append (runs_setSess .disconnected _)
  convert hbody.completes ⟨hatt, rfl⟩ using 1
  simp [State.reported, emits, acknowledged, microSetBaud, clearLastCmd, setSess, loadP0, latchOp]

/-- Settles O29: TP's acknowledgement, then SESS, in each session that admits the operation. -/
theorem closeCompletes : Obligations.CloseCompletes := by
  intro s queue acks hatt hsess hacks
  refine ⟨_, exec_hostClose hsess, ?_⟩
  have hclose : Runs [.micro .tpClose] (latchOp 0x1#4 s) _ := runs_tpClose hacks
  exact (hclose.append (runs_setSess .closed _)).completes ⟨hatt, rfl⟩

end Sys2Proof.Machine
end

/-!
# The exchanges of BAUD and of a wired LOAD

A frame is sent parameter by parameter, a response read after each (R158); only its last response is compared.
-/
section

namespace Sys2Proof.Machine

/-! ## A frame and its last response (R158) -/

/-- The frame of the opcode `op` and the bytes `bs` has been sent, its last response, `ack`, has been read, and `more`
is waiting. -/
def exchanged (op : Byte) (bs : List Byte) (ack : Byte) (more : List Byte) (s : State) : State :=
  { s with
    lastCmd := op, lastCmdV := true, winCnt := 0, rtByte := ack, env := { s.env with rx := more },
    out := { s.out with tp := s.out.tp ++ txAll (op :: bs) } }

theorem answered_emits_recordCmd (op : Byte) (bs : List Byte) (ack : Byte) (more : List Byte) (s : State) :
    answered ack more (emits (txAll (op :: bs)) (recordCmd op s)) = exchanged op bs ack more s := rfl

/-- Bytes sent and a response read after those of an exchange belong to it. -/
theorem answered_emits_exchanged (op : Byte) (bs bs' : List Byte) (ack ack' : Byte) (more more' : List Byte)
    (s : State) :
    answered ack' more' (emits (txAll bs') (exchanged op bs ack more s)) = exchanged op (bs ++ bs') ack' more' s := by
  simp only [answered, emits, exchanged, List.append_assoc, ← List.cons_append, txAll_append]

/-- R150: the opcode is sent, then a response is read. -/
theorem runs_firstResponse {s : State} (op : Byte) {x : Byte} {more : List Byte} (hrx : s.env.rx = x :: more)
    (hx : x ≠ Config.errInd) :
    Runs (responseTest true) (emits [.tx op] (recordCmd op s)) (exchanged op [] x more s) :=
  runs_responseTest true hrx hx

/-- R151, R155: a parameter is sent, then a response is read. -/
theorem runs_paramResponse {op x y : Byte} {bs more : List Byte} (v : Word) (s : State) (hy : y ≠ Config.errInd) :
    Runs (sendU32 v ++ responseTest true) (exchanged op bs x (y :: more) s)
      (exchanged op (bs ++ le32 v) y more s) := by
  have hparam := (runs_sendU32 v (exchanged op bs x (y :: more) s)).append
    (runs_responseTest true (b := y) (more := more) rfl hy)
  rwa [answered_emits_exchanged] at hparam

/-- R158: the opcode, both parameters, and the three responses that are not compared. -/
theorem runs_twoParams {s : State} (op : Byte) (v w : Word) {x y z : Byte} {more : List Byte}
    (hrx : s.env.rx = x :: y :: z :: more) (hx : x ≠ Config.errInd) (hy : y ≠ Config.errInd)
    (hz : z ≠ Config.errInd) :
    Runs (responseTest true ++ sendU32 v ++ responseTest true ++ sendU32 w ++ responseTest true)
      (emits [.tx op] (recordCmd op s)) (exchanged op (le32 v ++ le32 w) z more s) := by
  have hfirst := (runs_firstResponse op hrx hx).append (runs_paramResponse (more := z :: more) v s hy)
  have hboth := hfirst.append (runs_paramResponse (more := more) w s hz)
  simpa only [List.append_assoc, List.nil_append] using hboth

/-- R157: an exchange whose last response is not the acknowledgement it is compared with. -/
theorem ends_ackOk_exchanged {op ack : Byte} (bs more : List Byte) (s : State) (h : ack ≠ Config.ackOk) :
    Ends [.run .ackOk] (exchanged op bs ack more s)
      (State.failed (exchanged op bs ack more s) (protocolReport Config.ackOk ack s.opCur)) :=
  ends_ackOk h

/-! ## The exchange of BAUD (R176) -/

theorem ends_opBaud {s : State} (rate : Word) {x y : Byte} {more : List Byte} (hrx : s.env.rx = x :: y :: more)
    (hx : x ≠ Config.errInd) (hy : y ≠ Config.errInd) (hne : y ≠ Config.opBaud) :
    Ends [.run (.opBaud rate)] s
      (State.failed (exchanged Config.opBaud (le32 rate) y more s) (protocolReport Config.opBaud y s.opCur)) := by
  have htail := (runs_firstResponse Config.opBaud hrx hx).append (runs_paramResponse (more := more) rate s hy)
  rw [← List.append_assoc] at htail
  have hecho : Ends [.run .ackEchoBaud] (exchanged Config.opBaud (le32 rate) y more s) _ := ends_ackEchoBaud hne
  exact ends_sendOpcode (.opBaud rate) Config.opBaud _ (fun _ => rfl) (htail.append_ends hecho)

/-- Settles O15: the exchange up to its second response, which is the echo or fails the comparison. -/
theorem baudExchange : Obligations.BaudExchange := by
  intro s rate x y more hatt hb hrx hx hy
  have hs : s.Running := ⟨hatt, hb⟩
  by_cases hecho : y = 0x42#8
  · subst hecho
    have hbaud := (runs_opBaud rate hrx hx).exec hs
    rwa [answered_emits_recordCmd] at hbaud
  · simp only [hecho, if_false]
    exact (ends_opBaud rate hrx hx hy hecho).exec hs rfl

/-! ## The exchange of LOAD (R177) -/

theorem wiredLoadAnswered_eq (address length : Word) (ack : Byte) (more : List Byte) (s : State) :
    wiredLoadAnswered address length ack more s
      = exchanged Config.opLoad (le32 address ++ le32 length ++ Memory.readBytes s.recPay 0 length.toNat) ack more
          (counted length s) := rfl

theorem ends_wiredLoad {s : State} (address length : Word) {x y z ack : Byte} {more : List Byte}
    (hhs : s.hsActive = true) (hlen : length.toNat ≤ Config.recPaySize)
    (hrx : s.env.rx = x :: y :: z :: ack :: more) (hx : x ≠ Config.errInd) (hy : y ≠ Config.errInd)
    (hz : z ≠ Config.errInd) (hack : ack ≠ Config.errInd) (hne : ack ≠ Config.ackOk) :
    Ends [.run (.opLoad address length)] s
      (State.failed (wiredLoadAnswered address length ack more s) (protocolReport Config.ackOk ack s.opCur)) := by
  have htail := runs_wiredLoadTail address length hhs hlen hrx hx hy hz hack
  rw [wiredLoadAnswered_eq] at htail ⊢
  exact ends_sendOpcode (.opLoad address length) Config.opLoad _ (fun _ => rfl)
    (htail.append_ends (ends_ackOk_exchanged _ more (counted length s) hne))

/-- Settles O16: the exchange up to its fourth response, which is the acknowledgement or fails the comparison. -/
theorem wiredLoadExchange : Obligations.WiredLoadExchange := by
  intro s address length x y z ack more hatt hb hhs hlen hrx hx hy hz hack
  have hs : s.Running := ⟨hatt, hb⟩
  by_cases hok : ack = 0x4B#8
  · subst hok
    have hload := (runs_wiredLoad address length hhs hlen hrx hx hy hz).exec hs
    rwa [wiredLoadAnswered_eq] at hload
  · have hload := (ends_wiredLoad address length hhs hlen hrx hx hy hz hack hok).exec hs rfl
    rw [wiredLoadAnswered_eq] at hload
    simp only [hok, if_false]
    exact hload

end Sys2Proof.Machine
end

/-!
# cmd_load

The LOAD exchange of a load that the host issued, its payload taken from the host's stream (R160, R177).
-/
section

namespace Sys2Proof.Machine

/-! ## The payload the host offers (R160) -/

/-- R25: CNT, short of the last of the bytes to count, counts one more without wrapping. -/
theorem cnt_succ {c n : Word} {k : Nat} (h : c.toNat + (k + 1) = n.toNat) :
    c ≠ n ∧ (c + 1#32).toNat + k = n.toNat := by
  have := n.isLt
  refine ⟨by rintro rfl; omega, ?_⟩
  simp only [BitVec.toNat_add, BitVec.toNat_ofNat]
  omega

/-- The host's payload stream holds `later`. -/
def offering (later : List Byte) (s : State) : State := { s with env := { s.env with pl := later } }

/-- R160: the payload of a load that the host issued is the host's stream. -/
theorem microPayload_of_offered {n : Word} {s : State} {b : Byte} {later : List Byte} (h : s.cnt ≠ n)
    (hhs : s.hsActive = false) (hpl : s.env.pl = b :: later) :
    microPayload n s = .next (push [.micro (.sendPay b), .micro (.payload n)] (offering later s)) := by
  simp [microPayload, h, payloadByte, hhs, hpl, offering]

/-- R160: the payload bytes are sent as the host offers them. -/
theorem runs_offeredPayload {n : Word} {payload later : List Byte} {s : State} (hhs : s.hsActive = false)
    (hpl : s.env.pl = payload ++ later) (hk : s.cnt.toNat + payload.length = n.toNat) :
    Runs [.micro (.payload n)] s (emits (txAll payload) (counted n (offering later s))) := by
  induction payload generalizing s with
  | nil =>
    have hcnt : s.cnt = n := BitVec.eq_of_toNat_eq hk
    have hend : emits (txAll []) (counted n (offering later s)) = s := by
      rw [← hcnt, show later = s.env.pl from hpl.symm]
      exact emits_nil s
    rw [hend]
    exact .of_exec_one id fun _ rest => microPayload_of_done (s := jump rest s) hcnt
  | cons b bs ih =>
    obtain ⟨hne, hcnt⟩ := cnt_succ hk
    have hsend := runs_sendPay b (offering (bs ++ later) s)
    have hrest : Runs [.micro (.payload n)] (emits [.tx b] (counted (s.cnt + 1#32) (offering (bs ++ later) s))) _ :=
      ih hhs rfl hcnt
    have hend : emits (txAll bs)
          (counted n (offering later (emits [.tx b] (counted (s.cnt + 1#32) (offering (bs ++ later) s)))))
        = emits (txAll (b :: bs)) (counted n (offering later s)) :=
      emits_append [.tx b] (txAll bs) (counted n (offering later s))
    rw [hend] at hrest
    refine .of_exec (l := [.micro (.sendPay b), .micro (.payload n)]) (u := offering (bs ++ later) s) id
      (fun _ rest => ?_) (hsend.cons hrest)
    exact microPayload_of_offered (s := jump rest s) hne hhs hpl

/-! ## The operation (R177) -/

/-- The LOAD exchange of a load the host issued, as far as its last response, `ack`, which has been read. -/
def hostLoadAnswered (address length : Word) (payload later : List Byte) (ack : Byte) (more : List Byte) (s : State) :
    State :=
  exchanged Config.opLoad (le32 address ++ le32 length ++ payload) ack more (counted length (offering later s))

theorem runs_hostLoadTail {s : State} (address length : Word) {x y z ack : Byte} {payload later more : List Byte}
    (hhs : s.hsActive = false) (hlen : payload.length = length.toNat) (hpl : s.env.pl = payload ++ later)
    (hrx : s.env.rx = x :: y :: z :: ack :: more) (hx : x ≠ Config.errInd) (hy : y ≠ Config.errInd)
    (hz : z ≠ Config.errInd) (hack : ack ≠ Config.errInd) :
    Runs
      (responseTest true ++ sendU32 address ++ responseTest true ++ sendU32 length ++ responseTest true
        ++ [.micro .cntZero, .micro (.payload length)] ++ responseTest true)
      (emits [.tx Config.opLoad] (recordCmd Config.opLoad s))
      (hostLoadAnswered address length payload later ack more s) := by
  have hparams := runs_twoParams Config.opLoad address length hrx hx hy hz
  have hzero : Runs [.micro .cntZero] (exchanged Config.opLoad (le32 address ++ le32 length) z (ack :: more) s)
      (exchanged Config.opLoad (le32 address ++ le32 length) z (ack :: more) (counted 0#32 s)) :=
    .of_exec_one id fun _ _ => rfl
  have hpay : Runs [.micro (.payload length)]
      (exchanged Config.opLoad (le32 address ++ le32 length) z (ack :: more) (counted 0#32 s))
      (emits (txAll payload)
        (exchanged Config.opLoad (le32 address ++ le32 length) z (ack :: more) (counted length (offering later s)))) :=
    runs_offeredPayload hhs hpl ((Nat.zero_add _).trans hlen)
  have hlast := (hparams.append (hzero.cons hpay)).append (runs_responseTest true (b := ack) (more := more) rfl hack)
  rwa [answered_emits_exchanged] at hlast

theorem runs_hostLoad {s : State} (address length : Word) {x y z : Byte} {payload later more : List Byte}
    (hhs : s.hsActive = false) (hlen : payload.length = length.toNat) (hpl : s.env.pl = payload ++ later)
    (hrx : s.env.rx = x :: y :: z :: Config.ackOk :: more) (hx : x ≠ Config.errInd) (hy : y ≠ Config.errInd)
    (hz : z ≠ Config.errInd) :
    Runs [.run (.opLoad address length)] s
      (hostLoadAnswered address length payload later Config.ackOk more s) :=
  runs_sendOpcode (.opLoad address length) Config.opLoad _ (fun _ => rfl)
    ((runs_hostLoadTail address length hhs hlen hpl hrx hx hy hz (by decide)).append (runs_ackOk rfl))

theorem ends_hostLoad {s : State} (address length : Word) {x y z ack : Byte} {payload later more : List Byte}
    (hhs : s.hsActive = false) (hlen : payload.length = length.toNat) (hpl : s.env.pl = payload ++ later)
    (hrx : s.env.rx = x :: y :: z :: ack :: more) (hx : x ≠ Config.errInd) (hy : y ≠ Config.errInd)
    (hz : z ≠ Config.errInd) (hack : ack ≠ Config.errInd) (hne : ack ≠ Config.ackOk) :
    Ends [.run (.opLoad address length)] s
      (State.failed (hostLoadAnswered address length payload later ack more s)
        (protocolReport Config.ackOk ack s.opCur)) :=
  ends_sendOpcode (.opLoad address length) Config.opLoad _ (fun _ => rfl)
    ((runs_hostLoadTail address length hhs hlen hpl hrx hx hy hz hack).append_ends
      (ends_ackOk_exchanged _ more (counted length (offering later s)) hne))

/-- An Idle session admits cmd_load (R170). -/
theorem exec_cmdLoad {s : State} (h : s.sess = .idle) (address length : Word) :
    exec (.cmdLoad address length) s
      = .next (jump (loadBody address length ++ [.micro .completeOk])
          (loadStarted address length (latchOp 0x6#4 s))) :=
  congrArg Host.Outcome.next (hostOperation_of_admits (by simp [admits, h]) _ _)

/-- Settles O36: the exchange, then the carriage return's exchange or the failed comparison. -/
theorem cmdLoadCompletes : Obligations.CmdLoadCompletes := by
  intro s address length x y z payload later more hatt hidle hhs hlen hpl hx hy hz loaded
  have hs : (loadStarted address length (latchOp 0x6#4 s)).Running := ⟨hatt, rfl⟩
  refine ⟨fun hrx => ⟨_, exec_cmdLoad hidle address length, ?_⟩,
    fun ack hrx hack hne => ⟨_, exec_cmdLoad hidle address length, ?_⟩⟩
  · have hload : Runs [.run (.opLoad address length)] (loadStarted address length (latchOp 0x6#4 s)) _ :=
      runs_hostLoad address length hhs hlen hpl hrx hx hy hz
    have hbody : Runs (loadBody address length) _ _ :=
      hload.cons ((runs_opCr (more := more) rfl).cons (runs_setSess .idle _))
    convert hbody.completes hs using 1
    simp [loaded, State.reported, crRead, answered, emits, hostLoadAnswered, exchanged, counted, offering, recordCmd,
      setSess, loadStarted, loadP0, loadP1, latchOp, txAll, hidle]
  · have hload : Ends [.run (.opLoad address length)] (loadStarted address length (latchOp 0x6#4 s)) _ :=
      ends_hostLoad address length hhs hlen hpl hrx hx hy hz hack hne
    have hbody : Ends (loadBody address length) _ _ := hload.append [.run .opCr, .micro (.setSess .idle)]
    convert hbody hs [.micro .completeOk] using 1
    simp [loaded, State.failed, State.reported, hostLoadAnswered, exchanged, counted, offering, loadStarted, loadP0,
      loadP1, latchOp, hidle]

end Sys2Proof.Machine
end

/-!
# cmd_vfy

The VFY exchange with its readback, which the host takes byte by byte (R178).
-/
section

namespace Sys2Proof.Machine

/-! ## The readback -/

/-- The host has taken the readback bytes `bs`. -/
def handed (bs : List Byte) (s : State) : State :=
  { s with out := { s.out with readback := s.out.readback ++ bs } }

/-- TP's receive queue holds `more`. -/
def received (more : List Byte) (s : State) : State := { s with env := { s.env with rx := more } }

theorem handed_append (bs bs' : List Byte) (s : State) : handed bs' (handed bs s) = handed (bs ++ bs') s := by
  simp only [handed, List.append_assoc]

theorem handed_nil (s : State) : handed [] s = s := by
  simp only [handed, List.append_nil]

theorem microReadback_of_done {n : Word} {s : State} (h : s.cnt = n) : microReadback n s = s :=
  if_pos h

theorem microReadback_of_byte {n : Word} {s : State} {b : Byte} {more : List Byte} (h : s.cnt ≠ n)
    (hrx : s.env.rx = b :: more) :
    microReadback n s
      = push [.micro (.handRb b), .micro (.readback n)] (counted (s.cnt + 1#32) (received more s)) :=
  (if_neg h).trans (readOne_of_byte hrx _ _)

theorem State.Running.rbReady {s : State} (hs : s.Running) : s.env.rbReady = true := by
  obtain ⟨⟨-, -, hready, -, -⟩, -⟩ := hs
  exact hready

theorem runs_handRb (b : Byte) (s : State) : Runs [.micro (.handRb b)] s (handed [b] s) :=
  .of_exec_one id fun hs _ => congrArg Host.Outcome.next (if_pos hs.rbReady)

/-- R178: the readback bytes are read and handed over, one by one and whatever they are. -/
theorem runs_readback {n : Word} {readback more : List Byte} {s : State} (hrx : s.env.rx = readback ++ more)
    (hk : s.cnt.toNat + readback.length = n.toNat) :
    Runs [.micro (.readback n)] s (received more (handed readback (counted n s))) := by
  induction readback generalizing s with
  | nil =>
    have hcnt : s.cnt = n := BitVec.eq_of_toNat_eq hk
    have hend : received more (handed [] (counted n s)) = s := by
      rw [handed_nil, ← hcnt, show more = s.env.rx from hrx.symm]
      rfl
    rw [hend]
    exact .of_exec_one id fun _ rest => congrArg _ (microReadback_of_done (s := jump rest s) hcnt)
  | cons b bs ih =>
    obtain ⟨hne, hcnt⟩ := cnt_succ hk
    have hhand := runs_handRb b (counted (s.cnt + 1#32) (received (bs ++ more) s))
    have hrest : Runs [.micro (.readback n)] (handed [b] (counted (s.cnt + 1#32) (received (bs ++ more) s))) _ :=
      ih rfl hcnt
    have hend : received more
          (handed bs (counted n (handed [b] (counted (s.cnt + 1#32) (received (bs ++ more) s)))))
        = received more (handed (b :: bs) (counted n s)) :=
      handed_append [b] bs (received more (counted n s))
    rw [hend] at hrest
    refine .of_exec (l := [.micro (.handRb b), .micro (.readback n)])
      (u := counted (s.cnt + 1#32) (received (bs ++ more) s)) id (fun _ rest => ?_) (hhand.cons hrest)
    exact congrArg _ (microReadback_of_byte (s := jump rest s) hne hrx)

/-- R178: the readback, and the response after it. -/
theorem runs_readbackResponse {n : Word} {readback more : List Byte} {ack : Byte} {s : State}
    (hlen : readback.length = n.toNat) (hrx : s.env.rx = readback ++ ack :: more) (hack : ack ≠ Config.errInd) :
    Runs ([.micro (.readback n)] ++ responseTest true) (counted 0#32 s)
      (answered ack more (handed readback (counted n s))) := by
  have hread : Runs [.micro (.readback n)] (counted 0#32 s)
      (received (ack :: more) (handed readback (counted n s))) :=
    runs_readback hrx ((Nat.zero_add _).trans hlen)
  exact hread.append (runs_responseTest true (b := ack) (more := more) rfl hack)

theorem exec_vfyReadback (n : Word) (s : State) :
    exec (.vfyReadback n) s
      = .next (push ([.micro (.readback n)] ++ responseTest true ++ [.run .ackOk]) (counted 0#32 s)) := by
  rfl

theorem runs_vfyReadback {n : Word} {readback more : List Byte} {s : State} (hlen : readback.length = n.toNat)
    (hrx : s.env.rx = readback ++ Config.ackOk :: more) :
    Runs [.run (.vfyReadback n)] s (answered Config.ackOk more (handed readback (counted n s))) :=
  .of_exec (u := counted 0#32 s) id (fun _ rest => exec_vfyReadback n (jump rest s))
    ((runs_readbackResponse hlen hrx (by decide)).append (runs_ackOk rfl))

theorem ends_vfyReadback {n : Word} {readback more : List Byte} {ack : Byte} {s : State}
    (hlen : readback.length = n.toNat) (hrx : s.env.rx = readback ++ ack :: more) (hack : ack ≠ Config.errInd)
    (hne : ack ≠ Config.ackOk) :
    Ends [.run (.vfyReadback n)] s
      (State.failed (answered ack more (handed readback (counted n s))) (protocolReport Config.ackOk ack s.opCur)) := by
  have hexpect : Ends [.run .ackOk] (answered ack more (handed readback (counted n s))) _ := ends_ackOk hne
  exact .of_exec (u := counted 0#32 s) id (fun _ rest => exec_vfyReadback n (jump rest s))
    ((runs_readbackResponse hlen hrx hack).append_ends hexpect)

/-! ## The operation -/

/-- The VFY exchange as far as its last response, `ack`, which has been read. -/
def vfyAnswered (address size : Word) (readback : List Byte) (ack : Byte) (more : List Byte) (s : State) : State :=
  exchanged Config.opVfy (le32 address ++ le32 size) ack more (handed readback (counted size s))

theorem runs_opVfy {s : State} (address size : Word) {x y z : Byte} {readback more : List Byte}
    (hlen : readback.length = size.toNat) (hrx : s.env.rx = x :: y :: z :: (readback ++ Config.ackOk :: more))
    (hx : x ≠ Config.errInd) (hy : y ≠ Config.errInd) (hz : z ≠ Config.errInd) :
    Runs [.run (.opVfy address size)] s (vfyAnswered address size readback Config.ackOk more s) :=
  runs_sendOpcode (.opVfy address size) Config.opVfy _ (fun _ => rfl)
    ((runs_twoParams Config.opVfy address size hrx hx hy hz).append (runs_vfyReadback hlen rfl))

theorem ends_opVfy {s : State} (address size : Word) {x y z ack : Byte} {readback more : List Byte}
    (hlen : readback.length = size.toNat) (hrx : s.env.rx = x :: y :: z :: (readback ++ ack :: more))
    (hx : x ≠ Config.errInd) (hy : y ≠ Config.errInd) (hz : z ≠ Config.errInd) (hack : ack ≠ Config.errInd)
    (hne : ack ≠ Config.ackOk) :
    Ends [.run (.opVfy address size)] s
      (State.failed (vfyAnswered address size readback ack more s) (protocolReport Config.ackOk ack s.opCur)) :=
  ends_sendOpcode (.opVfy address size) Config.opVfy _ (fun _ => rfl)
    ((runs_twoParams Config.opVfy address size hrx hx hy hz).append_ends (ends_vfyReadback hlen rfl hack hne))

/-- R178: the statements of cmd_vfy up to `complete(OK)`. -/
def vfyBody (address size : Word) : List Stmt :=
  [.run (.opVfy address size), .run .opCr, .micro (.setSess .idle)]

/-- R178: cmd_vfy's parameters are latched, and SESS is Verifying. -/
def vfyStarted (address size : Word) (s : State) : State :=
  setSess .verifying (loadP1 size (loadP0 address (latchOp 0x7#4 s)))

/-- An Idle session admits cmd_vfy (R170). -/
theorem exec_cmdVfy {s : State} (h : s.sess = .idle) (address size : Word) :
    exec (.cmdVfy address size) s
      = .next (jump (vfyBody address size ++ [.micro .completeOk]) (vfyStarted address size s)) :=
  congrArg Host.Outcome.next (hostOperation_of_admits (by simp [admits, h]) _ _)

/-- Settles O37: the exchange with its readback, then the carriage return's exchange or the failed comparison. -/
theorem cmdVfyCompletes : Obligations.CmdVfyCompletes := by
  intro s address size x y z readback more hatt hidle hlen hx hy hz verified
  have hs : (vfyStarted address size s).Running := ⟨hatt, rfl⟩
  refine ⟨fun hrx => ⟨_, exec_cmdVfy hidle address size, ?_⟩,
    fun ack hrx hack hne => ⟨_, exec_cmdVfy hidle address size, ?_⟩⟩
  · have hvfy : Runs [.run (.opVfy address size)] (vfyStarted address size s) _ :=
      runs_opVfy address size hlen hrx hx hy hz
    have hbody : Runs (vfyBody address size) _ _ :=
      hvfy.cons ((runs_opCr (more := more) rfl).cons (runs_setSess .idle _))
    convert hbody.completes hs using 1
    simp [verified, State.reported, crRead, answered, emits, vfyAnswered, exchanged, counted, handed, recordCmd,
      setSess, vfyStarted, loadP0, loadP1, latchOp, txAll, hidle]
  · have hvfy : Ends [.run (.opVfy address size)] (vfyStarted address size s) _ :=
      ends_opVfy address size hlen hrx hx hy hz hack hne
    have hbody : Ends (vfyBody address size) _ _ := hvfy.append [.run .opCr, .micro (.setSess .idle)]
    convert hbody hs [.micro .completeOk] using 1
    simp [verified, State.failed, State.reported, vfyAnswered, exchanged, counted, handed, setSess, vfyStarted, loadP0,
      loadP1, latchOp, hidle]

end Sys2Proof.Machine
end

/-!
# The session and the bytes sent

`SessionStep` says of a step what R180 and R181 say of every one: where SESS may go, and whether a byte may leave.  It is
proved once for each instruction and each statement, from what the invariant requires of the statement.
-/
section

namespace Sys2Proof.Machine

/-- From `s` to `t` SESS stays or takes a transition of R180, and at most one byte is sent, in a session that exchanges
bytes (R181). -/
structure SessionStep (s t : State) : Prop where
  sess : t.sess = s.sess ∨ sessEdge s.sess t.sess = true
  sent : t.out.sent = s.out.sent ∨ (s.sess.exchanging = true ∧ ∃ b, t.out.sent = s.out.sent ++ [b])

theorem sent_of_tp_eq {o o' : Outputs} (h : o'.tp = o.tp) : o'.sent = o.sent := by
  simp only [Outputs.sent, h]

/-- A step that hands nothing to TP. -/
theorem SessionStep.silent {s t : State} (hx : t.sess = s.sess ∨ sessEdge s.sess t.sess = true)
    (ho : t.out.tp = s.out.tp) : SessionStep s t :=
  ⟨hx, .inl (sent_of_tp_eq ho)⟩

theorem SessionStep.refl (s : State) : SessionStep s s := .silent (.inl rfl) rfl

/-! ## The shared operations -/

theorem hold_sessionStep (st : Stmt) (s : State) : SessionStep s (hold st s) := .silent (.inl rfl) rfl

@[simp] theorem offerReport_sess (s : State) : (offerReport s).sess = s.sess := by
  obtain ⟨-, h⟩ | ⟨-, h⟩ := offerReport_cases s <;> rw [h] <;> rfl

@[simp] theorem offerReport_tp (s : State) : (offerReport s).out.tp = s.out.tp := by
  obtain ⟨-, h⟩ | ⟨-, h⟩ := offerReport_cases s <;> rw [h] <;> rfl

@[simp] theorem complete_sess (st : Status) (s : State) : (complete st s).sess = s.sess :=
  offerReport_sess (writeStatus st s)

@[simp] theorem complete_tp (st : Status) (s : State) : (complete st s).out.tp = s.out.tp :=
  offerReport_tp (writeStatus st s)

@[simp] theorem raise_sess (e : Err) (s : State) : (raise e s).sess = afterError e s.sess :=
  complete_sess (.error e) (releaseHex (demote e (setFault s)))

@[simp] theorem raise_tp (e : Err) (s : State) : (raise e s).out.tp = s.out.tp :=
  complete_tp (.error e) (releaseHex (demote e (setFault s)))

/-- R180: every session that exchanges bytes has a transition to Disconnected, the one an error of CF takes. -/
theorem sessEdge_afterError {e : Err} {x : Sess} (he : e.ofCf = true) (hx : x.exchanging = true) :
    sessEdge x (afterError e x) = true := by
  rw [afterError_cf he]
  cases x with
  | connecting | idle | loading | verifying | settingBaud => rfl
  | closed | disconnected | running => cases hx

theorem raise_cf_sessionStep {e : Err} {s : State} (he : e.ofCf = true) (hx : s.sess.exchanging = true) :
    SessionStep s (raise e s) :=
  .silent (.inr ((raise_sess e s).symm ▸ sessEdge_afterError he hx)) (raise_tp e s)

/-- R144: an error of HSR or HRV leaves the session alone. -/
theorem raise_file_sessionStep {e : Err} (he : e.ofCf = false) (s : State) : SessionStep s (raise e s) :=
  .silent (.inl ((raise_sess e s).trans (afterError_file he s.sess))) (raise_tp e s)

/-- A step from `u` is one from `s` where the two have the same SESS and have handed the same to TP. -/
theorem SessionStep.of_same {s u t : State} (h : SessionStep u t) (hx : u.sess = s.sess) (ho : u.out.tp = s.out.tp) :
    SessionStep s t := by
  have hsent := sent_of_tp_eq ho
  exact ⟨hx ▸ h.sess, hsent ▸ hx ▸ h.sent⟩

theorem expect_sessionStep (e a : Byte) {s : State} (hx : s.sess.exchanging = true) :
    SessionStep s (expect e a s) := by
  obtain ⟨-, h⟩ | ⟨-, h⟩ := expect_cases e a s <;> rw [h]
  · exact .refl s
  · exact raise_cf_sessionStep rfl hx

/-- R150: a byte is sent, or the step waits. -/
theorem send_sessionStep (b : Byte) (self : Stmt) {k : State → State}
    (hk : ∀ u, (k u).sess = u.sess ∧ (k u).out = u.out) {s : State} (hx : s.sess.exchanging = true) :
    SessionStep s (send b self k s) := by
  obtain ⟨-, h⟩ | ⟨-, h⟩ := send_cases b self k s <;> rw [h]
  · obtain ⟨hsess, hout⟩ := hk (emit (.tx b) s)
    exact ⟨.inl hsess, .inr ⟨hx, b, sent_of_tp_append (congrArg Outputs.tp hout)⟩⟩
  · exact hold_sessionStep self s

theorem sendOpcode_sessionStep (op : Byte) (i : Instr) (tail : List Stmt) {s : State}
    (hx : s.sess.exchanging = true) : SessionStep s (sendOpcode op i tail s) :=
  send_sessionStep op (.run i) (fun _ => ⟨by rfl, by rfl⟩) hx

/-- R153: a byte is taken, TP's timeout is raised, or the step waits. -/
theorem readOne_sessionStep (self : Stmt) {k : Byte → State → State} {s : State} (hx : s.sess.exchanging = true)
    (hk : ∀ b u, u.sess.exchanging = true → SessionStep u (k b u)) : SessionStep s (readOne self k s) := by
  obtain ⟨b, rest, -, h⟩ | ⟨-, -, -, h⟩ | ⟨-, -, h⟩ := readOne_cases self k s <;> rw [h]
  · exact (hk b { s with env := { s.env with rx := rest } } hx).of_same rfl rfl
  · exact (raise_cf_sessionStep (s := { s with env := { s.env with rxTmo := false } }) rfl hx).of_same rfl rfl
  · exact hold_sessionStep self s

/-- R159: a request to TP is no byte. -/
theorem tpRequest_sessionStep {o : TpOut} (ho : ∀ b, o ≠ .tx b) (self : Stmt) (s : State) :
    SessionStep s (tpRequest o self s) := by
  obtain ⟨q, acks, -, h⟩ | ⟨-, h⟩ := tpRequest_cases o self s <;> rw [h]
  · refine ⟨.inl rfl, .inl ?_⟩
    cases o with
    | tx b => exact absurd rfl (ho b)
    | openReq | closeReq => simp [Outputs.sent]
  · exact hold_sessionStep self s

/-- R170: a refused operation leaves SESS alone; one that runs takes its transition, if it has one. -/
theorem hostOperation_sessionStep (op : HostOp) {latch run : State → State} {s : State}
    (hl : ∀ u, (latch u).sess = u.sess ∧ (latch u).out = u.out)
    (hr : admits op s.sess = true → ∀ u, u.sess = s.sess → SessionStep u (run u)) :
    SessionStep s (hostOperation op latch run s) := by
  obtain ⟨hsess, hout⟩ := hl (latchOp op.code s)
  have htp : (latch (latchOp op.code s)).out.tp = s.out.tp := congrArg Outputs.tp hout
  obtain ⟨ha, h⟩ | ⟨-, h⟩ := hostOperation_cases op latch run s <;> rw [h]
  · exact (hr ha _ hsess).of_same hsess htp
  · exact .silent (.inl ((complete_sess _ _).trans hsess)) ((complete_tp _ _).trans htp)

theorem wiredOperation_sessionStep (op : HostOp) {run : State → State} {s : State}
    (hr : admits op s.sess = true → SessionStep s (run s)) : SessionStep s (wiredOperation op run s) := by
  obtain ⟨ha, h⟩ | ⟨-, h⟩ := wiredOperation_cases op run s <;> rw [h]
  · exact hr ha
  · exact .silent (.inl (complete_sess _ (releaseHex s))) (complete_tp _ (releaseHex s))

/-! ## The instructions -/

theorem execCrSequence_sessionStep {s t : State} (hx : s.sess.exchanging = true) (h : execCrSequence s = .next t) :
    SessionStep s t := by
  unfold execCrSequence at h
  split at h <;> cases h
  · exact .silent (.inl rfl) rfl
  · exact expect_sessionStep _ _ hx

/-- An instruction of an exchange, in a session that exchanges bytes. -/
theorem exec_sessionStep_of_exchange {i : Instr} {s t : State} (hi : ofExchange i = true)
    (hx : s.sess.exchanging = true) (h : exec i s = .next t) : SessionStep s t := by
  cases i with
  | opSync | opCr | opBaud | opLoad | opVfy | opRun => cases h; exact sendOpcode_sessionStep _ _ _ hx
  | ackOk | ackEchoBaud => cases h; exact expect_sessionStep _ _ hx
  | crSequence => exact execCrSequence_sessionStep hx h
  | errResponse => cases h; exact readOne_sessionStep _ hx fun _ _ hu => raise_cf_sessionStep rfl hu
  | vfyReadback => cases h; exact .silent (.inl rfl) rfl
  | _ => cases hi

theorem execHexrec_sessionStep {line : List Byte} {s t : State} (h : execHexrec line s = .next t) :
    SessionStep s t := by
  unfold execHexrec at h
  split at h <;> cases h
  · exact .silent (.inl rfl) rfl
  · exact (raise_file_sessionStep rfl _).of_same rfl rfl

theorem execHexExtendedLinearAddress_sessionStep {offset : Half} {payload : List Byte} {s t : State}
    (h : execHexExtendedLinearAddress offset payload s = .next t) : SessionStep s t := by
  unfold execHexExtendedLinearAddress at h
  split at h <;> cases h
  · exact .silent (.inl rfl) rfl
  · exact raise_file_sessionStep rfl s

theorem execHexStartLinearAddress_sessionStep {offset : Half} {payload : List Byte} {s t : State}
    (h : execHexStartLinearAddress offset payload s = .next t) : SessionStep s t := by
  unfold execHexStartLinearAddress at h
  split at h <;> cases h
  · exact wiredOperation_sessionStep _ fun _ => .silent (.inl rfl) rfl
  · exact raise_file_sessionStep rfl s

/-- The state an operation is admitted in is the source of the transition it begins with (R170, R180). -/
theorem sessEdge_of_admits {op : HostOp} {x y : Sess} (hx : admits op x = true)
    (hop : (op = .connect ∧ y = .connecting) ∨ (op = .baud ∧ y = .settingBaud) ∨ (op = .load ∧ y = .loading)
      ∨ (op = .vfy ∧ y = .verifying)) : sessEdge x y = true := by
  obtain ⟨rfl, rfl⟩ | ⟨rfl, rfl⟩ | ⟨rfl, rfl⟩ | ⟨rfl, rfl⟩ := hop <;>
    simp only [admits, beq_iff_eq] at hx <;> rw [hx] <;> rfl

/-- Every other instruction sends nothing, in any session: a record's action, a HEX line, a host operation. -/
theorem exec_sessionStep_of_not_exchange {i : Instr} {s t : State} (hi : ofExchange i = false)
    (h : exec i s = .next t) : SessionStep s t := by
  cases i with
  | hexrec => exact execHexrec_sessionStep h
  | hexData =>
    cases h
    exact wiredOperation_sessionStep _ fun ha => .silent (.inr (sessEdge_of_admits ha (by simp))) rfl
  | hexEndOfFile | hexExtendedSegmentAddress | hexStartSegmentAddress | hexUnknown =>
    cases h; exact .silent (.inl rfl) rfl
  | hexExtendedLinearAddress offset => exact execHexExtendedLinearAddress_sessionStep (offset := offset) h
  | hexStartLinearAddress offset => exact execHexStartLinearAddress_sessionStep (offset := offset) h
  | hostConnect | cmdBaud | cmdLoad | cmdVfy =>
    cases h
    exact hostOperation_sessionStep _ (fun _ => ⟨rfl, rfl⟩) fun ha _ hu =>
      .silent (.inr (sessEdge_of_admits (hu ▸ ha) (by simp))) rfl
  | hostOpen | hostClose | cmdSync | cmdCr | cmdRun | hexrun =>
    cases h
    exact hostOperation_sessionStep _ (fun _ => ⟨rfl, rfl⟩) fun _ _ _ => .silent (.inl rfl) rfl
  | reservedHostOp code =>
    cases h
    exact .silent (.inl (complete_sess _ (latchOp code s))) (complete_tp _ (latchOp code s))
  | _ => cases hi

theorem ofExchange_of_space {i : Instr} (h : i.space = .host ∨ i.space = .record) : ofExchange i = false := by
  cases i with
  | opSync | opCr | opBaud | opLoad | opVfy | opRun | ackOk | ackEchoBaud | crSequence | errResponse | vfyReadback =>
    simp [Instr.space] at h
  | _ => rfl

/-! ## The statements -/

/-- What the sequencer requires of a statement that is followed only in a session that exchanges bytes. -/
theorem MovedPast.exchanging {m : Micro} {u : State} {b : Bool} (h : MovedPast (.micro m) u)
    (hm : wellSequenced u.hsActive (some u.cnt) u.sess (.micro m :: u.prog) = (u.sess.exchanging && b)) :
    u.sess.exchanging = true :=
  (Bool.and_eq_true_iff.1 (hm.symm.trans h.seq)).1

theorem microPoll_sessionStep (mandatory : Bool) {s : State} (hx : s.sess.exchanging = true) :
    SessionStep s (microPoll mandatory s) := by
  unfold microPoll
  split
  · split
    · exact raise_cf_sessionStep rfl hx
    · exact .silent (.inl rfl) rfl
  · split <;> exact .silent (.inl rfl) rfl

theorem microPayload_sessionStep {n : Word} {s t : State} (h : microPayload n s = .next t) : SessionStep s t := by
  unfold microPayload at h
  split at h
  · cases h; exact .refl s
  · obtain ⟨-, -, hp⟩ | ⟨-, -, hp⟩ | ⟨-, -, hp⟩ | ⟨b, rest, -, -, hp⟩ := payloadByte_cases s <;>
      rw [hp] at h <;> cases h <;> exact .silent (.inl rfl) rfl

theorem microReadback_sessionStep (n : Word) {s : State} (hx : s.sess.exchanging = true) :
    SessionStep s (microReadback n s) := by
  unfold microReadback
  split
  · exact .refl s
  · exact readOne_sessionStep _ hx fun _ _ _ => .silent (.inl rfl) rfl

theorem microHandRb_sessionStep (b : Byte) (s : State) : SessionStep s (microHandRb b s) := by
  unfold microHandRb
  split <;> exact .silent (.inl rfl) rfl

theorem microExpectPair_sessionStep {s : State} (hx : s.sess.exchanging = true) :
    SessionStep s (microExpectPair s) := by
  unfold microExpectPair
  split <;> exact expect_sessionStep _ _ hx

/-- R173: an aborted connect goes from Connecting to Disconnected. -/
theorem microConnectTop_sessionStep {s : State} (hx : s.sess = .connecting) : SessionStep s (microConnectTop s) := by
  unfold microConnectTop
  split
  · refine .silent (.inr ?_) (complete_tp _ (setSess .disconnected s))
    rw [complete_sess, setSess_sess, hx]
    rfl
  · exact .silent (.inl rfl) rfl

theorem microNextChar_sessionStep (s : State) : SessionStep s (microNextChar s) := by
  unfold microNextChar
  split
  · exact hold_sessionStep _ s
  · split <;> exact .silent (.inl rfl) rfl
  · split
    · exact (raise_file_sessionStep rfl _).of_same rfl rfl
    · exact .refl s

theorem microEofTest_sessionStep (s : State) : SessionStep s (microEofTest s) := by
  unfold microEofTest
  split
  · exact .silent (.inl (complete_sess _ (releaseHex s))) (complete_tp _ (releaseHex s))
  · exact .refl s

theorem microYield_sessionStep (s : State) : SessionStep s (microYield s) := by
  unfold microYield
  split <;> exact .silent (.inl rfl) rfl

theorem MovedPast.execMicro_sessionStep {m : Micro} {u t : State} (h : MovedPast (.micro m) u)
    (he : Machine.execMicro m u = .next t) : SessionStep u t := by
  cases m with
  | send | sendPay => cases he; exact send_sessionStep _ _ (fun _ => ⟨by rfl, by rfl⟩) (h.exchanging rfl)
  | sleep | window | cntZero | setBaud | clearLast | lineStart => cases he; exact .silent (.inl rfl) rfl
  | poll mandatory => cases he; exact microPoll_sessionStep mandatory (h.exchanging_of_readsRx rfl)
  | payload => exact microPayload_sessionStep he
  | readback n => cases he; exact microReadback_sessionStep n (h.exchanging rfl)
  | handRb b => cases he; exact microHandRb_sessionStep b u
  | readLf | readPrompt =>
    cases he; exact readOne_sessionStep _ (h.exchanging rfl) fun _ _ _ => .silent (.inl rfl) rfl
  | expectPair => cases he; exact microExpectPair_sessionStep (h.exchanging rfl)
  | tpOpen | tpClose => cases he; exact tpRequest_sessionStep (by simp) _ u
  | setSess x =>
    cases he
    have hseq : (sessEdge u.sess x && _) = true := h.seq
    exact .silent (.inr (Bool.and_eq_true_iff.1 hseq).1) rfl
  | connectTop =>
    cases he
    have hseq : (!u.hsActive && u.sess == .connecting) = true := h.seq
    exact microConnectTop_sessionStep (beq_iff_eq.1 (Bool.and_eq_true_iff.1 hseq).2)
  | completeOk => cases he; exact .silent (.inl (complete_sess _ u)) (complete_tp _ u)
  | report => cases he; exact .silent (.inl (offerReport_sess u)) (offerReport_tp u)
  | nextChar => cases he; exact microNextChar_sessionStep u
  | eofTest => cases he; exact microEofTest_sessionStep u
  | yield => cases he; exact microYield_sessionStep u

theorem MovedPast.execStmt_sessionStep {st : Stmt} {u t : State} (h : MovedPast st u)
    (he : Machine.execStmt st u = .next t) : SessionStep u t := by
  cases st with
  | run i =>
    obtain ⟨hx, hi, -, -⟩ := h.run_inv
    exact exec_sessionStep_of_exchange hi hx he
  | decodeLine => exact execHexrec_sessionStep he
  | act => exact exec_sessionStep_of_not_exchange (ofExchange_of_space (.inr (recordInstr_space _ _ _))) he
  | micro m => exact h.execMicro_sessionStep he

/-! ## Every step -/

/-- R180, R181: every step but reset, from a state that meets the invariant. -/
theorem step_sessionStep {s t : State} (hinv : s.Inv) (hreset : ∀ rest, s.env.script ≠ .env .reset :: rest)
    (h : step s = .next t) : SessionStep s t := by
  cases stepCase s with
  | env a script hs hr =>
    cases hr.symm.trans h
    rw [envStep_ports fun ha => hreset script (ha ▸ hs)]
    exact .silent (.inl rfl) rfl
  | idle script hb hr => cases hr.symm.trans h; exact .silent (.inl rfl) rfl
  | request script q rest hb hq hr =>
    have hhost := ofExchange_of_space (.inl (decodeHost_space q.op q.arg0 q.arg1))
    exact (exec_sessionStep_of_not_exchange hhost (hr.symm.trans h)).of_same rfl rfl
  | stmt script st rest hb hp hr =>
    exact ((hinv.movedPast hb hp script).execStmt_sessionStep (hr.symm.trans h)).of_same rfl rfl
  | noStatement hb hp hr => cases hr.symm.trans h

/-- Settles O49: what a step does with SESS, whatever it is a step of. -/
theorem sessChangesOnlyAsTheTableSays : Obligations.SessChangesOnlyAsTheTableSays :=
  fun _ _ hinv hreset h => (step_sessionStep hinv hreset h).sess

/-- Settles O50: what a step sends; reset sends nothing. -/
theorem bytesLeaveOnlyInAnExchangingSession : Obligations.BytesLeaveOnlyInAnExchangingSession := by
  intro s t hinv h
  by_cases hreset : ∃ script, s.env.script = .env .reset :: script
  · obtain ⟨script, hs⟩ := hreset
    have hf : fetch s = .env .reset (s.turn script) := by simp [fetch, hs, State.turn]
    cases (step_env hf).symm.trans h
    exact .inl rfl
  · exact (step_sessionStep hinv (fun script hs => hreset ⟨script, hs⟩) h).sent

end Sys2Proof.Machine
end

/-!
# The readback, cmd_sync, cmd_cr and cmd_run

The readback with each response that can follow it (R178), and the host operations that are one or two exchanges with
the device, in an Idle session (R174, R175, R179).
-/
section

namespace Sys2Proof.Machine

/-! ## The readback (R178) -/

/-- R155, R205: ERR_IND and its status byte at a response-test. -/
theorem ends_responseTest_of_errInd {s : State} (mandatory : Bool) {c : Byte} {more : List Byte}
    (hrx : s.env.rx = Config.errInd :: c :: more) :
    Ends (responseTest mandatory) s (State.failed (answered Config.errInd more s) (deviceReport c s.opCur)) :=
  fun hs rest => by
    have hind := reaches_errResponse (s := jump (responseTest mandatory ++ rest) s) hs rfl hrx
    have hstatus : Ends [.run .errResponse] (answered Config.errInd (c :: more) s) _ := ends_errResponse rfl
    exact hind.trans (hstatus hs rest)

theorem ends_vfyReadback_of_errInd {n : Word} {readback more : List Byte} {c : Byte} {s : State}
    (hlen : readback.length = n.toNat) (hrx : s.env.rx = readback ++ Config.errInd :: c :: more) :
    Ends [.run (.vfyReadback n)] s
      (State.failed (answered Config.errInd more (handed readback (counted n s))) (deviceReport c s.opCur)) := by
  have hread : Runs [.micro (.readback n)] (counted 0#32 s) _ := runs_readback hrx ((Nat.zero_add _).trans hlen)
  have htest := hread.append_ends (ends_responseTest_of_errInd true rfl)
  exact .of_exec (u := counted 0#32 s) id (fun _ rest => exec_vfyReadback n (jump rest s)) (htest.append [.run .ackOk])

/-- Settles O13: the readback, then the acknowledgement, another byte, or ERR_IND and its status byte. -/
theorem readbackBytesReachTheHost : Obligations.ReadbackBytesReachTheHost := by
  intro s size readback more ack hatt hb hlen t
  have hs : s.Running := ⟨hatt, hb⟩
  refine ⟨fun hrx hack => ?_, fun c hrx hack => ?_⟩
  · by_cases hok : ack = 0x4B#8
    · subst hok
      exact (runs_vfyReadback hlen hrx).exec hs
    · simp only [hok, if_false]
      exact (ends_vfyReadback hlen hrx hack hok).exec hs rfl
  · subst hack
    exact (ends_vfyReadback_of_errInd hlen hrx).exec hs rfl

/-! ## cmd_sync -/

/-- R174: the SYNC byte has no response-test of its own. -/
theorem runs_opSync (s : State) : Runs [.run .opSync] s (emits [.tx Config.opSync] (recordCmd Config.opSync s)) :=
  runs_sendOpcode .opSync Config.opSync [] (fun _ => rfl) (.nil _)

theorem exec_cmdSync {s : State} (h : s.sess = .idle) :
    exec .cmdSync s = .next (jump ([.run .opSync, .run .opCr] ++ [.micro .completeOk]) (latchOp 0x3#4 s)) :=
  congrArg Host.Outcome.next (hostOperation_of_admits (by simp [admits, h]) _ _)

/-- Settles O33: the SYNC byte, then the carriage return's exchange. -/
theorem cmdSyncCompletes : Obligations.CmdSyncCompletes := by
  intro s more hatt hidle hrx
  refine ⟨_, exec_cmdSync hidle, ?_⟩
  have hbody : Runs [.run .opSync, .run .opCr] (latchOp 0x3#4 s) _ :=
    (runs_opSync _).cons (runs_opCr (more := more) hrx)
  convert hbody.completes ⟨hatt, rfl⟩ using 1
  simp [State.reported, crRead, answered, emits, recordCmd, latchOp, txAll]

/-! ## cmd_cr -/

/-- R175: the carriage return is sent, and the device is silent. -/
theorem ends_opCr_of_silence {s : State} (hrx : s.env.rx = []) :
    Ends [.run .opCr] s
      (State.failed { emits [.tx Config.opCr] (recordCmd Config.opCr s) with winCnt := 0 }
        (timeoutReport 0#3 s.opCur)) := by
  have htest : Ends (responseTest true) (emits [.tx Config.opCr] (recordCmd Config.opCr s)) _ :=
    ends_responseTest_of_silence hrx
  exact ends_sendOpcode .opCr Config.opCr (responseTest true ++ [.run .crSequence]) (fun _ => rfl) (htest.append _)

theorem exec_cmdCr {s : State} (h : s.sess = .idle) :
    exec .cmdCr s = .next (jump ([.run .opCr] ++ [.micro .completeOk]) (latchOp 0x4#4 s)) :=
  congrArg Host.Outcome.next (hostOperation_of_admits (by simp [admits, h]) _ _)

/-- Settles O34: the exchange completes, or its response-test finds silence. -/
theorem cmdCrCompletes : Obligations.CmdCrCompletes := by
  intro s hatt hidle
  have hs : (latchOp 0x4#4 s).Running := ⟨hatt, rfl⟩
  refine ⟨fun more hrx => ⟨_, exec_cmdCr hidle, ?_⟩, fun hrx => ⟨_, exec_cmdCr hidle, ?_⟩⟩
  · have hcr : Runs [.run .opCr] (latchOp 0x4#4 s) _ := runs_opCr (more := more) hrx
    convert hcr.completes hs using 1
    simp [State.reported, crRead, answered, emits, recordCmd, latchOp, txAll]
  · have hcr : Ends [.run .opCr] (latchOp 0x4#4 s) _ := ends_opCr_of_silence hrx
    convert hcr hs [.micro .completeOk] using 1
    simp [State.failed, State.reported, emits, recordCmd, latchOp, txAll, hidle]

/-! ## cmd_run -/

/-- R179: the opcode, one response, the address; no response follows it. -/
theorem runs_opRun {s : State} (address : Word) {x : Byte} {more : List Byte} (hrx : s.env.rx = x :: more)
    (hx : x ≠ Config.errInd) :
    Runs [.run (.opRun address)] s (exchanged Config.opRun (le32 address) x more s) := by
  have htail := (runs_firstResponse Config.opRun hrx hx).append (runs_sendU32 address _)
  have hend : emits (txAll (le32 address)) (exchanged Config.opRun [] x more s)
      = exchanged Config.opRun (le32 address) x more s :=
    answered_emits_exchanged Config.opRun [] (le32 address) x x more more s
  rw [hend] at htail
  exact runs_sendOpcode (.opRun address) Config.opRun (responseTest true ++ sendU32 address) (fun _ => rfl) htail

theorem exec_cmdRun {s : State} (h : s.sess = .idle) (address : Word) :
    exec (.cmdRun address) s
      = .next (jump (runBody address ++ [.micro .completeOk]) (loadP0 address (latchOp 0x8#4 s))) :=
  congrArg Host.Outcome.next (hostOperation_of_admits (by simp [admits, h]) _ _)

/-- Settles O38: the frame with its one response, then SESS. -/
theorem cmdRunCompletes : Obligations.CmdRunCompletes := by
  intro s address x more hatt hidle hrx hx
  refine ⟨_, exec_cmdRun hidle address, ?_⟩
  have hrun : Runs [.run (.opRun address)] (loadP0 address (latchOp 0x8#4 s)) _ := runs_opRun address hrx hx
  have hbody : Runs (runBody address) _ _ := hrun.cons (runs_setSess .running _)
  convert hbody.completes ⟨hatt, rfl⟩ using 1
  simp [State.reported, exchanged, setSess, loadP0, latchOp]

end Sys2Proof.Machine
end

/-!
# Admission

With BUSY 0 the request at the host port is latched, and the admission table decides whether it begins (R170).  `Starts`
says once for each of the ten operations how it begins; the reserved codes have no row in the table.
-/
section

namespace Sys2Proof.Machine

/-! ## The table -/

/-- R91: a code is that of a host operation, or reserved. -/
theorem hostCode_cases (c : Nibble) : (∃ op : HostOp, c = op.code) ∨ 10 ≤ c.toNat := by
  have htable : ∀ c : Nibble,
      (∃ op ∈ [HostOp.open_, .close, .connect, .sync, .cr, .baud, .load, .vfy, .run, .hexrun], c = op.code)
        ∨ 10 ≤ c.toNat := by decide
  exact (htable c).imp_left fun ⟨op, _, hop⟩ => ⟨op, hop⟩

/-- R170: in the states that have a column, the model admits what the table does. -/
theorem tableAdmits_code {x : Sess} (hx : x.resting = true) (op : HostOp) : tableAdmits op.code x = admits op x := by
  cases x with
  | closed | disconnected | idle | running => cases op <;> rfl
  | connecting | loading | verifying | settingBaud => cases hx

/-- R94, R170: no state admits a reserved code. -/
theorem tableAdmits_reserved {c : Nibble} (hc : 10 ≤ c.toNat) (x : Sess) : tableAdmits c x = false := by
  have hrow : ∀ c : Nibble, 10 ≤ c.toNat → admissionRow c = (false, false, false, false) := by decide
  cases x <;> simp [tableAdmits, hrow c hc]

/-! ## The start of an operation -/

/-- From `s` to `t` an operation begins: it has a statement to run, and has put nothing out, taken nothing, and changed
neither what was latched nor the status. -/
structure Begun (s t : State) : Prop where
  busy : t.busy = s.busy
  opCur : t.opCur = s.opCur
  p0 : t.p0 = s.p0
  p1 : t.p1 = s.p1
  prog : t.prog ≠ []
  out : t.out = s.out
  env : t.env = s.env
  stCause : t.stCause = s.stCause
  stOp : t.stOp = s.stOp

/-- The operation `op` with its arguments: the parameters it loads are the arguments latched with its request, and where
it is admitted it begins with `run`. -/
structure Starts (op : HostOp) (arg0 arg1 : Word) (latch run : State → State) : Prop where
  exec : ∀ s, exec (decodeHost op.code arg0 arg1) s = .next (hostOperation op latch run s)
  latched : ∀ s, s.p0 = arg0 → s.p1 = arg1 → latch s = s
  begun : ∀ s, Begun s (run s)

theorem loadP0_self {v : Word} {s : State} (h : s.p0 = v) : loadP0 v s = s := by
  subst h
  rfl

theorem loadP1_self {v : Word} {s : State} (h : s.p1 = v) : loadP1 v s = s := by
  subst h
  rfl

theorem exists_starts (op : HostOp) (arg0 arg1 : Word) : ∃ latch run, Starts op arg0 arg1 latch run := by
  cases op with
  | close | connect | sync | cr | hexrun =>
    exact ⟨id, _, fun _ => rfl, fun _ _ _ => rfl,
      fun _ => ⟨rfl, rfl, rfl, rfl, List.cons_ne_nil _ _, rfl, rfl, rfl, rfl⟩⟩
  | open_ | baud | run =>
    exact ⟨loadP0 arg0, _, fun _ => rfl, fun _ h0 _ => loadP0_self h0,
      fun _ => ⟨rfl, rfl, rfl, rfl, List.cons_ne_nil _ _, rfl, rfl, rfl, rfl⟩⟩
  | load | vfy =>
    exact ⟨fun s => loadP1 arg1 (loadP0 arg0 s), _, fun _ => rfl,
      fun s h0 h1 => by rw [loadP0_self h0, loadP1_self h1],
      fun _ => ⟨rfl, rfl, rfl, rfl, List.cons_ne_nil _ _, rfl, rfl, rfl, rfl⟩⟩

/-! ## The request at the host port -/

/-- R170, R209: a refusal, once its request is latched. -/
theorem complete_refused_takeRequest {s : State} (hd : s.env.doneReady = true) (q : Request) (rest : List Request) :
    complete (.refused q.op) (takeRequest q rest s)
      = State.reported
          { s with opCur := q.op, p0 := q.arg0, p1 := q.arg1, env := { s.env with reqs := rest } }
          (refusedReport q.op q.op) :=
  complete_of_doneReady (s := takeRequest q rest s) hd (.refused q.op)

/-- R170: an operation whose request is latched begins, or is refused. -/
theorem exec_takeRequest {q : Request} {op : HostOp} (hop : q.op = op.code) (rest : List Request) (s : State) :
    ∃ t, Begun (takeRequest q rest s) t
      ∧ exec (decodeHost q.op q.arg0 q.arg1) (takeRequest q rest s)
        = .next (if admits op s.sess then t else complete (.refused q.op) (takeRequest q rest s)) := by
  obtain ⟨latch, run, hstarts⟩ := exists_starts op q.arg0 q.arg1
  have hlatch : latch (latchOp op.code (takeRequest q rest s)) = takeRequest q rest s := by
    rw [← hop]
    exact hstarts.latched _ rfl rfl
  refine ⟨_, hstarts.begun (takeRequest q rest s), ?_⟩
  rw [hop, hstarts.exec, hostOperation, hlatch]
  rfl

/-- Settles O26: an operation begins or is refused as the table says; a reserved code is in no column of it. -/
theorem admissionTableDecides : Obligations.AdmissionTableDecides := by
  intro s q rest hs hd hb hx hq
  rw [step_of_request hs hb hq]
  obtain ⟨op, hop⟩ | hreserved := hostCode_cases q.op
  · obtain ⟨t, ht, hexec⟩ := exec_takeRequest hop rest s
    rw [hexec, hop, tableAdmits_code hx, ← hop]
    refine ⟨fun ha => ⟨t, by rw [if_pos ha], ?_⟩, fun ha => ?_⟩
    · exact ⟨ht.busy, ht.opCur, ht.p0, ht.p1, ht.prog, ht.out, ht.env, ht.stCause, ht.stOp⟩
    · rw [ha, if_neg Bool.false_ne_true, complete_refused_takeRequest hd]
  · rw [tableAdmits_reserved hreserved, decodeHost_reserved hreserved, exec_reservedHostOp]
    refine ⟨fun ha => (by cases ha), fun _ => congrArg _ ?_⟩
    exact complete_refused_takeRequest hd q rest

end Sys2Proof.Machine
end

/-!
# connect

A round of connect's loop is five steps: the top, the SYNC byte, the sleep and its end, the poll (R173, R155).
`connectPhase` is the state after some of them in a round the device is silent in; a run of connect is put together from
its phases, whether MUF's turns come from the script or after its end.
-/
section

namespace Sys2Proof.Machine

/-! ## Turns of MUF -/

/-- MUF has the next `d` turns, from the script or after its end. -/
def MufTurns (d : Nat) (script : List Turn) : Prop := ∀ a, .env a ∉ script.take d

theorem mufTurns_nil (d : Nat) : MufTurns d [] := by
  simp [MufTurns]

theorem mufTurns_replicate (d : Nat) (script : List Turn) : MufTurns d (List.replicate d .muf ++ script) := by
  simp [MufTurns]

theorem mufTurns_cons {d : Nat} {x : Turn} {script : List Turn} :
    MufTurns (d + 1) (x :: script) ↔ x = .muf ∧ MufTurns d script := by
  cases x with
  | muf => simp [MufTurns]
  | env a => exact ⟨fun h => absurd (by simp) (h a), fun ⟨h, _⟩ => by cases h⟩

theorem MufTurns.tail {d : Nat} {script : List Turn} (h : MufTurns (d + 1) script) : MufTurns d script.tail := by
  cases script with
  | nil => exact mufTurns_nil d
  | cons x script => exact (mufTurns_cons.1 h).2

@[simp] theorem turn_busy (s : State) (script : List Turn) : (s.turn script).busy = s.busy := rfl
@[simp] theorem turn_opCur (s : State) (script : List Turn) : (s.turn script).opCur = s.opCur := rfl
@[simp] theorem turn_env (s : State) (script : List Turn) :
    (s.turn script).env = { s.env with script := script } := rfl

theorem turn_self {s : State} {script : List Turn} (h : s.env.script = script) : s.turn script = s := by
  subst h
  rfl

/-- On a turn of MUF an operation in flight does its next statement. -/
theorem step_turn {s : State} {d : Nat} {script : List Turn} (hmuf : MufTurns (d + 1) script) (hb : s.busy = true)
    (st : Stmt) (rest : List Stmt) :
    step (jump (st :: rest) (s.turn script)) = execStmt st (jump rest (s.turn script.tail)) := by
  cases script with
  | nil => exact step_of_prog (s := jump (st :: rest) (s.turn [])) rfl hb rfl
  | cons x script =>
    obtain ⟨rfl, -⟩ := mufTurns_cons.1 hmuf
    refine step_of_fetchStmt ?_
    simp [fetch, fetchMuf, State.turn, jump, hb]

/-- On its turn the environment acts. -/
theorem step_turn_env (s : State) (a : EnvAct) (script : List Turn) :
    step (s.turn (.env a :: script)) = .next (envStep a (s.turn script)) := by
  rfl

/-- R71: bytes that arrive one after the other wait behind those that do. -/
theorem reaches_rxBytes (bs : List Byte) (script : List Turn) (s : State) :
    Reaches (s.turn (bs.map (fun b => .env (.rxByte b)) ++ script)) ((received (s.env.rx ++ bs) s).turn script) := by
  induction bs generalizing s with
  | nil => rw [List.append_nil]; exact .refl _
  | cons b bs ih =>
    have hrest := ih (received (s.env.rx ++ [b]) s)
    rw [show (received (s.env.rx ++ [b]) s).env.rx ++ bs = s.env.rx ++ b :: bs from List.append_assoc _ [b] bs] at hrest
    exact .of_step (step_turn_env s (.rxByte b) _) hrest

/-! ## A round -/

/-- What follows the sleep of a round. -/
def connectTail : List Stmt :=
  [.micro .window, .micro (.poll false), .run .crSequence, .micro (.setSess .idle), .micro .completeOk]

/-- The SYNC byte has been sent (R173). -/
def synced (s : State) : State := emits [.tx Config.opSync] (recordCmd Config.opSync s)

/-- A round has found silence. -/
def silentRound (s : State) : State := { synced s with winCnt := 0 }

@[simp] theorem synced_busy (s : State) : (synced s).busy = s.busy := rfl
@[simp] theorem synced_opCur (s : State) : (synced s).opCur = s.opCur := rfl
@[simp] theorem synced_env (s : State) : (synced s).env = s.env := rfl
@[simp] theorem silentRound_busy (s : State) : (silentRound s).busy = s.busy := rfl
@[simp] theorem silentRound_opCur (s : State) : (silentRound s).opCur = s.opCur := rfl
@[simp] theorem silentRound_env (s : State) : (silentRound s).env = s.env := rfl

/-- After so many steps of a round that begins in `s` and finds silence; after five, at the top again. -/
def connectPhase (s : State) : Nat → State
  | 0 => jump [.micro .connectTop] s
  | 1 => jump (.run .opSync :: .micro .sleep :: connectTail) s
  | 2 => jump (.micro .sleep :: connectTail) (synced s)
  | 3 => jump connectTail { synced s with winCnt := Config.winTicks }
  | 4 => jump connectTail.tail (silentRound s)
  | _ => jump [.micro .connectTop] (silentRound s)

theorem connectPhase_env (s : State) (j : Nat) : (connectPhase s j).env = s.env := by
  match j with
  | 0 | 1 | 2 | 3 | 4 | _ + 5 => simp [connectPhase]

/-- The script of a phase is the script the round began with. -/
theorem connectPhase_turn {s : State} {script : List Turn} (h : s.env.script = script) (j : Nat) :
    (connectPhase s j).turn script = connectPhase s j :=
  turn_self (by rw [connectPhase_env, h])

theorem microConnectTop_of_not_abort {s : State} (h : s.env.abort = false) :
    microConnectTop s = jump (.run .opSync :: .micro .sleep :: connectTail) s :=
  if_neg (by simp [h])

theorem exec_opSync_of_txReady {s : State} (h : s.env.txReady = true) : exec .opSync s = .next (synced s) := by
  obtain ⟨-, hsend⟩ | ⟨hnot, -⟩ := sendOpcode_cases Config.opSync .opSync [] s
  · exact congrArg Host.Outcome.next hsend
  · rw [h] at hnot; cases hnot

/-- R155, R173: silence leads back to the top. -/
theorem microPoll_of_connect_silence {s : State} (h : s.env.rx = []) :
    microPoll false s = jump [.micro .connectTop] s := by
  simp [microPoll, h]

/-- R155: a byte that is not ERR_IND ends the response-test. -/
theorem microPoll_of_byte {s : State} (mandatory : Bool) {b : Byte} {more : List Byte} (hrx : s.env.rx = b :: more)
    (hb : b ≠ Config.errInd) : microPoll mandatory s = { s with rtByte := b, env := { s.env with rx := more } } := by
  simp [microPoll, hrx, hb]

/-- R213: `abort` is seen at the top only, and the device's bytes by the poll only. -/
theorem step_connectPhase {s : State} (hb : s.busy = true) (htx : s.env.txReady = true) {j d : Nat} (hj : j < 5)
    (habort : j = 0 → s.env.abort = false) (hrx : j = 4 → s.env.rx = []) {script : List Turn}
    (hmuf : MufTurns (d + 1) script) :
    step ((connectPhase s j).turn script) = .next ((connectPhase s (j + 1)).turn script.tail) := by
  match j, hj with
  | 0, _ =>
    have htop := microConnectTop_of_not_abort (s := jump [] (s.turn script.tail)) (habort rfl)
    exact (step_turn hmuf hb _ _).trans (congrArg Host.Outcome.next htop)
  | 1, _ =>
    exact (step_turn hmuf hb _ _).trans
      (exec_opSync_of_txReady (s := jump (.micro .sleep :: connectTail) (s.turn script.tail)) htx)
  | 2, _ => exact step_turn (s := synced s) hmuf hb _ _
  | 3, _ => exact step_turn (s := { synced s with winCnt := Config.winTicks }) hmuf hb _ _
  | 4, _ =>
    have hpoll := microPoll_of_connect_silence
      (s := jump connectTail.tail.tail ((silentRound s).turn script.tail)) (hrx rfl)
    exact (step_turn (s := silentRound s) hmuf hb _ _).trans (congrArg Host.Outcome.next hpoll)

theorem reaches_connectPhase {s : State} (hb : s.busy = true) (htx : s.env.txReady = true) (d : Nat) {j : Nat}
    (hjd : j + d ≤ 5) (habort : j = 0 → s.env.abort = false) (hrx : j + d = 5 → s.env.rx = []) {script : List Turn}
    (hmuf : MufTurns d script) :
    Reaches ((connectPhase s j).turn script) ((connectPhase s (j + d)).turn (script.drop d)) := by
  induction d generalizing j script with
  | zero => exact .refl _
  | succ d ih =>
    have hstep := step_connectPhase hb htx (by omega) habort (fun hj => hrx (by omega)) hmuf
    have hrest := ih (j := j + 1) (by omega) (by simp) (fun hj => hrx (by omega)) hmuf.tail
    rw [List.drop_tail, show j + 1 + d = j + (d + 1) by omega] at hrest
    exact .of_step hstep hrest

/-- R173: silence is retried without limit. -/
theorem reaches_silentRounds {s : State} (hb : s.busy = true) (htx : s.env.txReady = true)
    (habort : s.env.abort = false) (hrx : s.env.rx = []) (n : Nat) (script : List Turn) :
    Reaches ((connectPhase s 0).turn (List.replicate (5 * n) .muf ++ script))
      ((connectPhase (silentRound^[n] s) 0).turn script) := by
  induction n generalizing s with
  | zero => exact .refl _
  | succ n ih =>
    have hround := reaches_connectPhase hb htx 5 (j := 0) (by omega) (fun _ => habort) (fun _ => hrx)
      (mufTurns_replicate 5 (List.replicate (5 * n) .muf ++ script))
    rw [← List.append_assoc, List.replicate_append_replicate, Nat.add_comm 5] at hround
    exact hround.trans (ih (s := silentRound s) hb htx habort hrx)

/-- Every round sends one SYNC byte. -/
theorem silentRound_iterate_succ (n : Nat) (s : State) :
    silentRound^[n + 1] s
      = { s with
          lastCmd := Config.opSync, lastCmdV := true, winCnt := 0,
          out := { s.out with tp := s.out.tp ++ txAll (List.replicate (n + 1) Config.opSync) } } := by
  induction n with
  | zero => rfl
  | succ n ih =>
    rw [Function.iterate_succ_apply', ih, List.replicate_succ' (n := n + 1), txAll_append, ← List.append_assoc]
    rfl

theorem silentRound_iterate_keeps (n : Nat) (s : State) :
    (silentRound^[n] s).env = s.env ∧ (silentRound^[n] s).busy = s.busy := by
  induction n generalizing s with
  | zero => exact ⟨rfl, rfl⟩
  | succ n ih => exact ih (silentRound s)

/-! ## The end of connect -/

/-- With the script at its end, an operation in flight does its next statement. -/
theorem step_jump_of_unscripted {s : State} (hscript : s.env.script = []) (hb : s.busy = true) (st : Stmt)
    (rest : List Stmt) : step (jump (st :: rest) s) = execStmt st (jump rest s) :=
  step_of_prog (s := jump (st :: rest) s) hscript hb rfl

/-- R155: after the sleep, the poll finds a byte that is not ERR_IND. -/
theorem reaches_answered {s : State} (hscript : s.env.script = []) (hb : s.busy = true) {b : Byte} {more : List Byte}
    (hrx : s.env.rx = b :: more) (hne : b ≠ Config.errInd) :
    Reaches (jump connectTail s) (jump connectTail.tail.tail (answered b more s)) := by
  have hwindow := step_jump_of_unscripted hscript hb (.micro .window) connectTail.tail
  have hbyte := microPoll_of_byte (s := jump connectTail.tail.tail { s with winCnt := 0 }) false hrx hne
  have hpoll := step_jump_of_unscripted (s := { s with winCnt := 0 }) hscript hb (.micro (.poll false))
    connectTail.tail.tail
  exact .of_step hwindow (.of_step (hpoll.trans (congrArg Host.Outcome.next hbyte)) (.refl _))

/-- The first of CrTail's two bytes has been read, and `more` is waiting (R161). -/
def lfRead (more : List Byte) (s : State) : State :=
  { s with rd2Lf := Config.chLf, env := { s.env with rx := more } }

/-- R161: CrTail finds the two bytes it expects. -/
theorem reaches_crRead {s : State} (hscript : s.env.script = []) (hb : s.busy = true) {more : List Byte}
    (rest : List Stmt) (hcr : s.rtByte = Config.opCr) (hrx : s.env.rx = Config.chLf :: Config.chPrompt :: more) :
    Reaches (jump (.run .crSequence :: rest) s) (jump rest (crRead more s)) := by
  have htest := (step_jump_of_unscripted hscript hb (.run .crSequence) rest).trans (exec_crSequence_of_cr hcr)
  have hlf : step (jump (.micro .readLf :: .micro .readPrompt :: .micro .expectPair :: rest) s)
      = .next (jump (.micro .readPrompt :: .micro .expectPair :: rest) (lfRead (Config.chPrompt :: more) s)) :=
    (step_jump_of_unscripted hscript hb _ _).trans (congrArg Host.Outcome.next
      (readOne_of_byte (s := jump (.micro .readPrompt :: .micro .expectPair :: rest) s) hrx _ _))
  have hprompt : step (jump (.micro .readPrompt :: .micro .expectPair :: rest) (lfRead (Config.chPrompt :: more) s))
      = .next (jump (.micro .expectPair :: rest) (crRead more s)) :=
    (step_jump_of_unscripted (s := lfRead (Config.chPrompt :: more) s) hscript hb _ _).trans
      (congrArg Host.Outcome.next (readOne_of_byte
        (s := jump (.micro .expectPair :: rest) (lfRead (Config.chPrompt :: more) s)) (more := more) rfl _ _))
  have hpair : step (jump (.micro .expectPair :: rest) (crRead more s)) = .next (jump rest (crRead more s)) :=
    (step_jump_of_unscripted (s := crRead more s) hscript hb _ _).trans
      (congrArg Host.Outcome.next ((if_pos rfl).trans (expect_self _ _)))
  exact .of_step htest (.of_step hlf (.of_step hprompt (.of_step hpair (.refl _))))

/-- R173: `SESS <- Idle`, then `complete(OK)`. -/
theorem reaches_idleReported {s : State} (hscript : s.env.script = []) (hb : s.busy = true)
    (hd : s.env.doneReady = true) :
    Reaches (jump [.micro (.setSess .idle), .micro .completeOk] s)
      (State.reported (setSess .idle s) (okReport s.opCur)) := by
  have hsess := step_jump_of_unscripted hscript hb (.micro (.setSess .idle)) [.micro .completeOk]
  have hok := step_jump_of_unscripted (s := setSess .idle s) hscript hb (.micro .completeOk) []
  have hreport := complete_of_doneReady (s := jump [] (setSess .idle s)) hd .ok
  exact .of_step hsess (.of_step (hok.trans (congrArg Host.Outcome.next hreport)) (.refl _))

/-- R161, R173: after the sleep the device answers with the CR sequence, and connect completes in Idle. -/
theorem reaches_connected {s : State} {more : List Byte} (hscript : s.env.script = []) (hb : s.busy = true)
    (hd : s.env.doneReady = true) (hrx : s.env.rx = Config.opCr :: Config.chLf :: Config.chPrompt :: more) :
    Reaches (jump connectTail s)
      (State.reported
        (setSess .idle (crRead more (answered Config.opCr (Config.chLf :: Config.chPrompt :: more) s)))
        (okReport s.opCur)) := by
  have hanswer := reaches_answered hscript hb hrx (by decide)
  have hcr := reaches_crRead (s := answered Config.opCr (Config.chLf :: Config.chPrompt :: more) s) hscript hb
    [.micro (.setSess .idle), .micro .completeOk] rfl rfl
  have hend := reaches_idleReported
    (s := crRead more (answered Config.opCr (Config.chLf :: Config.chPrompt :: more) s)) hscript hb hd
  exact hanswer.trans (hcr.trans hend)

/-- R213: `abort` at the top. -/
theorem reaches_cancelled {s : State} (hscript : s.env.script = []) (hb : s.busy = true)
    (hd : s.env.doneReady = true) (habort : s.env.abort = true) :
    Reaches (jump [.micro .connectTop] s)
      (State.reported (setSess .disconnected s) (cancelledReport s.opCur)) := by
  have htop : microConnectTop (jump [] s) = State.reported (setSess .disconnected s) (cancelledReport s.opCur) :=
    (if_pos habort).trans (complete_of_doneReady (s := setSess .disconnected (jump [] s)) hd .cancelled)
  have hstep := step_jump_of_unscripted hscript hb (.micro .connectTop) []
  exact .of_step (hstep.trans (congrArg Host.Outcome.next htop)) (.refl _)

/-! ## A round the environment ends -/

/-- Bytes that come after the SYNC byte and before the poll. -/
theorem reaches_connected_of_rxBytes {s : State} (hb : s.busy = true) (htx : s.env.txReady = true)
    (hd : s.env.doneReady = true) (habort : s.env.abort = false) (hrx : s.env.rx = []) :
    Reaches ((connectPhase s 0).turn (List.replicate 3 .muf
        ++ ([Config.opCr, Config.chLf, Config.chPrompt].map (fun b => .env (.rxByte b)) ++ [])))
      (State.reported
        (setSess .idle (crRead [] (answered Config.opCr [Config.chLf, Config.chPrompt] ((silentRound s).turn []))))
        (okReport (silentRound s).opCur)) := by
  have hphase := reaches_connectPhase hb htx 3 (j := 0) (by omega) (fun _ => habort) (by simp)
    (mufTurns_replicate 3 ([Config.opCr, Config.chLf, Config.chPrompt].map (fun b => .env (.rxByte b)) ++ []))
  rw [List.drop_left' List.length_replicate] at hphase
  have hbytes := reaches_rxBytes [Config.opCr, Config.chLf, Config.chPrompt] [] (connectPhase s 3)
  rw [connectPhase_env, hrx, List.nil_append] at hbytes
  have hend := reaches_connected
    (s := (received [Config.opCr, Config.chLf, Config.chPrompt] { synced s with winCnt := Config.winTicks }).turn [])
    rfl (by simpa [received] using hb) (by simpa [received] using hd) rfl
  exact hphase.trans (hbytes.trans hend)

/-- The host has raised `abort` (R213). -/
def abortRaised (s : State) : State := { s with env := { s.env with abort := true } }

@[simp] theorem abortRaised_busy (s : State) : (abortRaised s).busy = s.busy := rfl
@[simp] theorem abortRaised_opCur (s : State) : (abortRaised s).opCur = s.opCur := rfl
@[simp] theorem abortRaised_env (s : State) : (abortRaised s).env = { s.env with abort := true } := rfl

theorem silentRound_abortRaised (s : State) : silentRound (abortRaised s) = abortRaised (silentRound s) := rfl

/-- R213: an abort raised within a round leaves the round as it is. -/
theorem step_setAbort_connectPhase (s : State) (j : Nat) (script : List Turn) :
    step ((connectPhase s j).turn (.env (.setAbort true) :: script))
      = .next ((connectPhase (abortRaised s) j).turn script) := by
  rw [step_turn_env]
  match j with
  | 0 | 1 | 2 | 3 | 4 | _ + 5 => rfl

/-- R213: an abort raised after `r + 1` steps of a round is seen at the next top. -/
theorem reaches_cancelled_of_setAbort {s : State} (hb : s.busy = true) (htx : s.env.txReady = true)
    (hd : s.env.doneReady = true) (habort : s.env.abort = false) (hrx : s.env.rx = []) {r : Nat} (hr : r < 5) :
    Reaches ((connectPhase s 0).turn (List.replicate (r + 1) .muf ++ [.env (.setAbort true)]))
      (State.reported (setSess .disconnected ((abortRaised (silentRound s)).turn []))
        (cancelledReport (silentRound s).opCur)) := by
  have hphase := reaches_connectPhase hb htx (r + 1) (j := 0) (by omega) (fun _ => habort) (fun _ => hrx)
    (mufTurns_replicate (r + 1) [.env (.setAbort true)])
  rw [List.drop_left' List.length_replicate] at hphase
  have hraise := step_setAbort_connectPhase s (0 + (r + 1)) []
  have hnext := reaches_connectPhase (s := abortRaised s) (by simpa using hb) (by simpa using htx) (4 - r)
    (j := 0 + (r + 1)) (by omega) (by omega) (fun _ => by simpa using hrx) (mufTurns_nil _)
  rw [List.drop_nil, show 0 + (r + 1) + (4 - r) = 5 by omega] at hnext
  have hcancel := reaches_cancelled (s := (silentRound (abortRaised s)).turn []) (by simp) (by simpa using hb)
    (by simpa using hd) (by simp)
  rw [turn_opCur, silentRound_abortRaised, abortRaised_opCur] at hcancel
  exact hphase.trans (.of_step hraise (hnext.trans hcancel))

/-! ## The operation -/

/-- connect has been taken, and SESS is Connecting (R173). -/
def connectStarted (s : State) : State := setSess .connecting (latchOp 0x2#4 s)

/-- A Disconnected session admits connect (R170), which begins at the top of its loop. -/
theorem exec_hostConnect {s : State} (h : s.sess = .disconnected) :
    exec .hostConnect s = .next (connectPhase (connectStarted s) 0) :=
  congrArg Host.Outcome.next (hostOperation_of_admits (by simp [admits, h]) _ _)

/-- R173: connect begins with `n` silent rounds, which the script gives their turns. -/
theorem reaches_roundsOfConnect {s : State} (habort : s.env.abort = false) (htx : s.env.txReady = true)
    (hrx : s.env.rx = []) {n d : Nat} {script : List Turn}
    (hscript : s.env.script = List.replicate (5 * n + d) .muf ++ script) :
    Reaches (connectPhase (connectStarted s) 0)
      ((connectPhase (silentRound^[n] (connectStarted s)) 0).turn (List.replicate d .muf ++ script)) := by
  have hrounds := reaches_silentRounds (s := connectStarted s) rfl htx habort hrx n (List.replicate d .muf ++ script)
  rwa [← List.append_assoc, List.replicate_append_replicate, connectPhase_turn (s := connectStarted s) hscript]
    at hrounds

/-- Settles O30: three steps of a round, then the device's answer. -/
theorem connectCompletes : Obligations.ConnectCompletes := by
  rintro s more ⟨hscript, htx, -, -, hd⟩ hsess habort hrx
  refine ⟨_, exec_hostConnect hsess, ?_⟩
  have hphase := reaches_connectPhase (s := connectStarted s) rfl htx 3 (j := 0) (by omega) (fun _ => habort)
    (by simp) (mufTurns_nil 3)
  rw [List.drop_nil, connectPhase_turn (s := connectStarted s) hscript,
    connectPhase_turn (s := connectStarted s) hscript] at hphase
  have hend := reaches_connected (s := { synced (connectStarted s) with winCnt := Config.winTicks }) hscript rfl hd hrx
  convert hphase.trans hend using 1
  simp [State.reported, setSess, crRead, answered, synced, emits, recordCmd, connectStarted, latchOp, txAll]

/-- Settles O31: `n` silent rounds, then one in which the device answers. -/
theorem connectRetriesSilenceUntilAnswered : Obligations.ConnectRetriesSilenceUntilAnswered := by
  intro n s hsess habort htx hd hrx hscript
  refine ⟨_, exec_hostConnect hsess, ?_⟩
  obtain ⟨henv, hbusy⟩ := silentRound_iterate_keeps n (connectStarted s)
  have hrounds := reaches_roundsOfConnect habort htx hrx hscript
  have hend := reaches_connected_of_rxBytes hbusy (by rw [henv]; exact htx) (by rw [henv]; exact hd)
    (by rw [henv]; exact habort) (by rw [henv]; exact hrx)
  rw [← Function.iterate_succ_apply' silentRound, silentRound_iterate_succ] at hend
  convert hrounds.trans hend using 1
  simp [State.reported, setSess, crRead, answered, connectStarted, latchOp, State.turn, hrx]

/-- Settles O32: abort at the first top, at any top, and raised within the round after `m / 5` silent ones. -/
theorem abortCancelsConnect : Obligations.AbortCancelsConnect := by
  refine ⟨fun s ⟨hscript, _, _, _, hd⟩ hsess habort => ⟨_, exec_hostConnect hsess, ?_⟩,
    fun s ⟨hscript, _, _, _, hd⟩ hb _ hp habort => ?_,
    fun m s hsess habort htx hd hrx hscript => ⟨_, exec_hostConnect hsess, ?_⟩⟩
  · have hcancel : Reaches (connectPhase (connectStarted s) 0) _ := reaches_cancelled hscript rfl hd habort
    convert hcancel using 1
    simp [State.reported, setSess, connectStarted, latchOp, hsess]
  · have hcancel := reaches_cancelled hscript hb hd habort
    rwa [jump_of_prog hp] at hcancel
  · obtain ⟨henv, hbusy⟩ := silentRound_iterate_keeps (m / 5) (connectStarted s)
    rw [← Nat.div_add_mod m 5, Nat.add_assoc] at hscript
    have hrounds := reaches_roundsOfConnect habort htx hrx hscript
    have hend := reaches_cancelled_of_setAbort hbusy (by rw [henv]; exact htx) (by rw [henv]; exact hd)
      (by rw [henv]; exact habort) (by rw [henv]; exact hrx) (Nat.mod_lt m (by decide))
    rw [← Function.iterate_succ_apply' silentRound, silentRound_iterate_succ] at hend
    convert hrounds.trans hend using 1
    simp [State.reported, setSess, abortRaised, connectStarted, latchOp, State.turn, hsess]

end Sys2Proof.Machine
end

/-!
# Error entry

What a completion and an error leave for a host that does not take the report, beside what they leave for one that does;
a line that fails its checks is an error of HRV.
-/
section

namespace Sys2Proof.Machine

/-- R209, R243: `s` after a completion with the values of `r`, while the host has not taken the report. -/
def State.offering (s : State) (r : Report) : State :=
  { s with
    stCause := r.cause, stSub := r.sub, stExp := r.exp, stAct := r.act, stCode := r.code, stOp := r.op,
    prog := [.micro .report] }

theorem complete_of_not_doneReady {s : State} (h : s.env.doneReady = false) (st : Status) :
    complete st s = s.offering (st.report s.opCur) := by
  obtain ⟨hd, -⟩ | ⟨-, hc⟩ := complete_cases st s
  · cases h.symm.trans hd
  · exact hc

/-- R207, R243: error entry for an error of CF whose report waits. -/
theorem raise_of_not_doneReady {s : State} (h : s.env.doneReady = false) {e : Err} (he : e.ofCf = true) :
    raise e s
      = State.offering
          { s with anyFault := true, hsActive := false, sess := if s.sess = .closed then .closed else .disconnected }
          (Status.report (.error e) s.opCur) := by
  rw [raise, complete_of_not_doneReady (s := releaseHex (demote e (setFault s))) h, demote, afterError_cf he]
  rfl

/-- R207, R144, R243: error entry for an error of HSR or HRV whose report waits. -/
theorem raise_file_of_not_doneReady {s : State} (h : s.env.doneReady = false) {e : Err} (he : e.ofCf = false) :
    raise e s
      = State.offering { s with anyFault := true, hsActive := false } (Status.report (.error e) s.opCur) := by
  rw [raise, complete_of_not_doneReady (s := releaseHex (demote e (setFault s))) h, demote, afterError_file he]
  rfl

/-- Settles O11: the errors of HSR and HRV leave SESS alone and those of CF do not; the report is taken or waits. -/
theorem errorEntryChangesOnlyWhatItSays : Obligations.ErrorEntryChangesOnlyWhatItSays := by
  intro e s
  cases e with
  | malformedRecord | truncatedFile =>
    exact ⟨fun h => raise_file_of_doneReady h rfl, fun h => raise_file_of_not_doneReady h rfl⟩
  | protocolError | timeoutWindow | timeoutBlocking | deviceError =>
    exact ⟨fun h => raise_of_doneReady h rfl, fun h => raise_of_not_doneReady h rfl⟩

/-- R110, R201: a line that fails a check raises, over record registers that hold free values (U6). -/
theorem exec_hexrec_of_malformed {line : List Byte} {sub : MalSub} (h : decodeLine line = .malformed sub) (s : State) :
    exec (.hexrec line) s
      = .next (raise (.malformedRecord sub) (freeRecord (setChecksumAcc (finalChecksumAcc line) s))) := by
  simp only [exec, execHexrec, h]

/-- Settles O18: the error entry of `exec_hexrec_of_malformed`, for a host that takes the report. -/
theorem invalidLineRaisesMalformedRecord : Obligations.InvalidLineRaisesMalformedRecord := by
  intro line sub s h hd
  have hraise := raise_file_of_doneReady (s := freeRecord (setChecksumAcc (finalChecksumAcc line) s)) hd
    (e := .malformedRecord sub) rfl
  exact ⟨_, (exec_hexrec_of_malformed h s).trans (congrArg _ hraise), rfl⟩

/-- Settles O48: no meaning of an instruction ends in a fault or a refusal. -/
theorem noInstructionStops : Obligations.NoInstructionStops := exec_answers

end Sys2Proof.Machine
end

/-!
# One report for each operation

`ReportStep` says of a step what R209 says of every one of MUF: it makes no report and BUSY does not fall, or it makes the
report of the status registers and BUSY is 0.  Only `offerReport` reports, so each instruction and each statement is
followed to it.
-/
section

namespace Sys2Proof.Machine

/-- From `s` to `t` no report is made, and BUSY does not fall. -/
structure Unreported (s t : State) : Prop where
  reports : t.out.reports = s.out.reports
  busy : s.busy = true → t.busy = true

/-- From `s` to `t` no report is made and BUSY does not fall, or the operation ends with the report of the status
registers (R209). -/
inductive ReportStep (s t : State) : Prop where
  | unreported (h : Unreported s t)
  | ended (hb : t.busy = false) (hp : t.prog = []) (ho : t.out.reports = s.out.reports ++ [reportOf t])

theorem Unreported.refl (s : State) : Unreported s s := ⟨rfl, id⟩

theorem Unreported.trans {s u t : State} (h : Unreported s u) (k : Unreported u t) : Unreported s t :=
  ⟨k.reports.trans h.reports, fun hb => k.busy (h.busy hb)⟩

theorem ReportStep.refl (s : State) : ReportStep s s := .unreported (.refl s)

/-- A step that begins without a report. -/
theorem Unreported.step {s u t : State} (h : Unreported s u) (k : ReportStep u t) : ReportStep s t := by
  cases k with
  | unreported k => exact .unreported (h.trans k)
  | ended hb hp ho => exact .ended hb hp (h.reports ▸ ho)

/-! ## The shared operations -/

theorem hold_reportStep (st : Stmt) (s : State) : ReportStep s (hold st s) := .unreported ⟨rfl, id⟩

/-- R209, R243: the report is taken and the operation ends, or it waits and BUSY stays. -/
theorem offerReport_reportStep (s : State) : ReportStep s (offerReport s) := by
  obtain ⟨-, h⟩ | ⟨-, h⟩ := offerReport_cases s <;> rw [h]
  · exact .ended rfl rfl rfl
  · exact .unreported ⟨rfl, id⟩

/-- R209: a completion writes the status registers before it reports them. -/
theorem complete_reportStep (st : Status) {s u : State} (h : Unreported s u) : ReportStep s (complete st u) :=
  have hwrite : Unreported u (writeStatus st u) := ⟨rfl, id⟩
  (h.trans hwrite).step (offerReport_reportStep _)

theorem raise_reportStep (e : Err) (s : State) : ReportStep s (raise e s) :=
  complete_reportStep (.error e) ⟨rfl, id⟩

theorem expect_reportStep (e a : Byte) (s : State) : ReportStep s (expect e a s) := by
  obtain ⟨-, h⟩ | ⟨-, h⟩ := expect_cases e a s <;> rw [h]
  · exact .refl s
  · exact raise_reportStep _ s

theorem send_reportStep (b : Byte) (self : Stmt) {k : State → State} (hk : ∀ u, Unreported u (k u)) (s : State) :
    ReportStep s (send b self k s) := by
  obtain ⟨-, h⟩ | ⟨-, h⟩ := send_cases b self k s <;> rw [h]
  · have hemit : Unreported s (emit (.tx b) s) := ⟨rfl, id⟩
    exact .unreported (hemit.trans (hk _))
  · exact hold_reportStep self s

theorem sendOpcode_reportStep (op : Byte) (i : Instr) (tail : List Stmt) (s : State) :
    ReportStep s (sendOpcode op i tail s) :=
  send_reportStep op (.run i) (fun _ => by exact ⟨rfl, id⟩) s

theorem readOne_reportStep (self : Stmt) {k : Byte → State → State} (hk : ∀ b u, ReportStep u (k b u)) (s : State) :
    ReportStep s (readOne self k s) := by
  have henv (env : Env) : Unreported s { s with env := env } := ⟨rfl, id⟩
  obtain ⟨b, rest, -, h⟩ | ⟨-, -, -, h⟩ | ⟨-, -, h⟩ := readOne_cases self k s <;> rw [h]
  · exact (henv _).step (hk b _)
  · exact (henv _).step (raise_reportStep _ _)
  · exact hold_reportStep self s

theorem tpRequest_reportStep (o : TpOut) (self : Stmt) (s : State) : ReportStep s (tpRequest o self s) := by
  obtain ⟨q, acks, -, h⟩ | ⟨-, h⟩ := tpRequest_cases o self s <;> rw [h]
  · exact .unreported ⟨rfl, id⟩
  · exact hold_reportStep self s

/-- R170: an operation that runs makes no report; a refusal makes its own. -/
theorem hostOperation_reportStep (op : HostOp) {latch run : State → State} (hl : ∀ u, Unreported u (latch u))
    (hr : ∀ u, Unreported u (run u)) (s : State) : ReportStep s (hostOperation op latch run s) := by
  have htaken : Unreported s (latchOp op.code s) := ⟨rfl, fun _ => rfl⟩
  have hlatched := htaken.trans (hl _)
  obtain ⟨-, h⟩ | ⟨-, h⟩ := hostOperation_cases op latch run s <;> rw [h]
  · exact .unreported (hlatched.trans (hr _))
  · exact complete_reportStep _ hlatched

theorem wiredOperation_reportStep (op : HostOp) {run : State → State} (hr : ∀ u, Unreported u (run u)) (s : State) :
    ReportStep s (wiredOperation op run s) := by
  obtain ⟨-, h⟩ | ⟨-, h⟩ := wiredOperation_cases op run s <;> rw [h]
  · exact .unreported (hr s)
  · exact complete_reportStep _ ⟨rfl, id⟩

/-! ## The instructions -/

theorem execCrSequence_reportStep {s t : State} (h : execCrSequence s = .next t) : ReportStep s t := by
  unfold execCrSequence at h
  split at h <;> cases h
  · exact .unreported ⟨rfl, id⟩
  · exact expect_reportStep _ _ s

theorem execHexrec_reportStep {line : List Byte} {s t : State} (h : execHexrec line s = .next t) : ReportStep s t := by
  unfold execHexrec at h
  split at h <;> cases h
  · exact .unreported ⟨rfl, id⟩
  · have hfree : Unreported s (freeRecord (setChecksumAcc (finalChecksumAcc line) s)) := ⟨rfl, id⟩
    exact hfree.step (raise_reportStep _ _)

theorem execHexExtendedLinearAddress_reportStep {offset : Half} {payload : List Byte} {s t : State}
    (h : execHexExtendedLinearAddress offset payload s = .next t) : ReportStep s t := by
  unfold execHexExtendedLinearAddress at h
  split at h <;> cases h
  · exact .unreported ⟨rfl, id⟩
  · exact raise_reportStep _ s

theorem execHexStartLinearAddress_reportStep {offset : Half} {payload : List Byte} {s t : State}
    (h : execHexStartLinearAddress offset payload s = .next t) : ReportStep s t := by
  unfold execHexStartLinearAddress at h
  split at h <;> cases h
  · exact wiredOperation_reportStep _ (fun _ => by exact ⟨rfl, id⟩) s
  · exact raise_reportStep _ s

theorem exec_reportStep {i : Instr} {s t : State} (h : exec i s = .next t) : ReportStep s t := by
  cases i with
  | opSync | opCr | opBaud | opLoad | opVfy | opRun => cases h; exact sendOpcode_reportStep _ _ _ s
  | ackOk | ackEchoBaud => cases h; exact expect_reportStep _ _ s
  | crSequence => exact execCrSequence_reportStep h
  | errResponse => cases h; exact readOne_reportStep _ (fun _ u => raise_reportStep _ u) s
  | hexrec => exact execHexrec_reportStep h
  | hexData => cases h; exact wiredOperation_reportStep _ (fun _ => by exact ⟨rfl, id⟩) s
  | vfyReadback | hexEndOfFile | hexExtendedSegmentAddress | hexStartSegmentAddress | hexUnknown =>
    cases h; exact .unreported ⟨rfl, id⟩
  | hexExtendedLinearAddress offset => exact execHexExtendedLinearAddress_reportStep (offset := offset) h
  | hexStartLinearAddress offset => exact execHexStartLinearAddress_reportStep (offset := offset) h
  | hostOpen | hostClose | hostConnect | cmdSync | cmdCr | cmdBaud | cmdLoad | cmdVfy | cmdRun | hexrun =>
    cases h; refine hostOperation_reportStep _ (fun _ => ?_) (fun _ => ?_) s <;> exact ⟨rfl, id⟩
  | reservedHostOp => cases h; exact complete_reportStep _ ⟨rfl, fun _ => rfl⟩

/-! ## The statements -/

theorem microPoll_reportStep (mandatory : Bool) (s : State) : ReportStep s (microPoll mandatory s) := by
  unfold microPoll
  split
  · split
    · exact raise_reportStep _ s
    · exact .unreported ⟨rfl, id⟩
  · split <;> exact .unreported ⟨rfl, id⟩

theorem microPayload_reportStep {n : Word} {s t : State} (h : microPayload n s = .next t) : ReportStep s t := by
  unfold microPayload at h
  split at h
  · cases h; exact .refl s
  · obtain ⟨-, -, hp⟩ | ⟨-, -, hp⟩ | ⟨-, -, hp⟩ | ⟨b, rest, -, -, hp⟩ := payloadByte_cases s <;>
      rw [hp] at h <;> cases h <;> exact .unreported ⟨rfl, id⟩

theorem microReadback_reportStep (n : Word) (s : State) : ReportStep s (microReadback n s) := by
  unfold microReadback
  split
  · exact .refl s
  · exact readOne_reportStep _ (fun _ _ => by exact .unreported ⟨rfl, id⟩) s

theorem microHandRb_reportStep (b : Byte) (s : State) : ReportStep s (microHandRb b s) := by
  unfold microHandRb
  split <;> exact .unreported ⟨rfl, id⟩

theorem microExpectPair_reportStep (s : State) : ReportStep s (microExpectPair s) := by
  unfold microExpectPair
  split <;> exact expect_reportStep _ _ s

theorem microConnectTop_reportStep (s : State) : ReportStep s (microConnectTop s) := by
  unfold microConnectTop
  split
  · exact complete_reportStep _ ⟨rfl, id⟩
  · exact .unreported ⟨rfl, id⟩

theorem microNextChar_reportStep (s : State) : ReportStep s (microNextChar s) := by
  unfold microNextChar
  split
  · exact hold_reportStep _ s
  · split <;> exact .unreported ⟨rfl, id⟩
  · next rest _ =>
    have htaken : Unreported s { s with env := { s.env with hx := rest } } := ⟨rfl, id⟩
    split
    · exact htaken.step (raise_reportStep _ _)
    · exact .refl s

theorem microEofTest_reportStep (s : State) : ReportStep s (microEofTest s) := by
  unfold microEofTest
  split
  · exact complete_reportStep _ ⟨rfl, id⟩
  · exact .refl s

theorem microYield_reportStep (s : State) : ReportStep s (microYield s) := by
  unfold microYield
  split <;> exact .unreported ⟨rfl, id⟩

theorem execMicro_reportStep {m : Micro} {s t : State} (h : execMicro m s = .next t) : ReportStep s t := by
  cases m with
  | send | sendPay => cases h; exact send_reportStep _ _ (fun _ => by exact ⟨rfl, id⟩) s
  | sleep | window | cntZero | setBaud | clearLast | setSess | lineStart => cases h; exact .unreported ⟨rfl, id⟩
  | poll mandatory => cases h; exact microPoll_reportStep mandatory s
  | payload => exact microPayload_reportStep h
  | readback n => cases h; exact microReadback_reportStep n s
  | handRb b => cases h; exact microHandRb_reportStep b s
  | readLf | readPrompt => cases h; exact readOne_reportStep _ (fun _ _ => by exact .unreported ⟨rfl, id⟩) s
  | expectPair => cases h; exact microExpectPair_reportStep s
  | tpOpen | tpClose => cases h; exact tpRequest_reportStep _ _ s
  | connectTop => cases h; exact microConnectTop_reportStep s
  | completeOk => cases h; exact complete_reportStep _ (.refl s)
  | report => cases h; exact offerReport_reportStep s
  | nextChar => cases h; exact microNextChar_reportStep s
  | eofTest => cases h; exact microEofTest_reportStep s
  | yield => cases h; exact microYield_reportStep s

theorem execStmt_reportStep {st : Stmt} {s t : State} (h : execStmt st s = .next t) : ReportStep s t := by
  cases st with
  | run i => exact exec_reportStep (i := i) h
  | decodeLine => exact execHexrec_reportStep h
  | act => exact exec_reportStep (i := recordInstrOf s) h
  | micro m => exact execMicro_reportStep (m := m) h

/-- Settles O54: with an operation in flight and the script at its end, a step is its next statement. -/
theorem oneReportPerOperation : Obligations.OneReportPerOperation := by
  intro s t hs hb h
  cases hp : s.prog with
  | nil =>
    have hf : fetch s = .empty := by simp [fetch, fetchMuf, hs, hb, hp]
    cases (step_empty hf).symm.trans h
  | cons st rest =>
    have hmoved : Unreported s (jump rest s) := ⟨rfl, id⟩
    cases hmoved.step (execStmt_reportStep ((step_of_prog hs hb hp).symm.trans h)) with
    | unreported hu => exact .inl ⟨hu.reports, hu.busy hb⟩
    | ended hbusy hprog hreports => exact .inr ⟨hbusy, hprog, hreports⟩

end Sys2Proof.Machine
end

/-!
# Holds

`Stmt.Waits` says of a statement that its meaning is to stay the one to run, with nothing else changed (R243).  For
each condition a step waits for there is one lemma: without it, the statements that need it wait.  A step of an
operation whose next statement waits is then no change at all (`step_of_waits`).
-/
section

namespace Sys2Proof.Machine

/-- R243: the statement stays the one to run, and nothing else changes. -/
def Stmt.Waits (st : Stmt) (s : State) : Prop := execStmt st s = .next (hold st s)

/-- Putting back the statement the sequencer moved past is no change. -/
theorem hold_jump_of_prog {s : State} {st : Stmt} {rest : List Stmt} (hp : s.prog = st :: rest) :
    hold st (jump rest s) = s := by
  unfold hold jump
  rw [← hp]

/-- A step of an operation whose next statement waits leaves the state as it is. -/
theorem step_of_waits {s : State} {st : Stmt} {rest : List Stmt} (hs : s.env.script = []) (hb : s.busy = true)
    (hp : s.prog = st :: rest) (h : st.Waits (jump rest s)) : step s = .next s := by
  rw [step_of_prog hs hb hp, h, hold_jump_of_prog hp]

/-! ## The condition each statement waits for -/

section

variable {s : State}

theorem send_of_not_txReady (h : s.env.txReady = false) (b : Byte) (self : Stmt) (k : State → State) :
    send b self k s = hold self s :=
  if_neg (by simp [h])

/-- R150: no byte leaves while TP is not ready, be it of a parameter, of a payload or a wire opcode's first. -/
theorem waits_of_not_txReady (h : s.env.txReady = false) {st : Stmt}
    (hst : (∃ b, st = .micro (.send b) ∨ st = .micro (.sendPay b)) ∨ ∃ i b l, st = .run i ∧ frameHeader i = b :: l) :
    st.Waits s := by
  obtain ⟨b, rfl | rfl⟩ | ⟨i, b, l, rfl, hframe⟩ := hst
  · exact congrArg Host.Outcome.next (send_of_not_txReady h b _ _)
  · exact congrArg Host.Outcome.next (send_of_not_txReady h b _ _)
  · obtain ⟨exchange, hexec⟩ := exec_of_frameHeader hframe
    exact (hexec s).trans (congrArg Host.Outcome.next (send_of_not_txReady h b _ _))

/-- R178: a readback that is not at its end reads one byte. -/
theorem microReadback_of_ne {n : Word} (hn : s.cnt ≠ n) :
    microReadback n s
      = readOne (.micro (.readback n))
          (fun b t => push [.micro (.handRb b), .micro (.readback n)] { t with cnt := t.cnt + 1#32 }) s :=
  if_neg hn

/-- R153: a blocking read waits for a byte, or for TP's timeout where TP has one. -/
theorem waits_of_silence (hrx : s.env.rx = []) (ht : s.env.rxTmo = false ∨ Config.tpHasTimeout = false) {st : Stmt}
    (hst : st = .micro .readLf ∨ st = .micro .readPrompt ∨ st = .run .errResponse
      ∨ ∃ n, st = .micro (.readback n) ∧ s.cnt ≠ n) :
    st.Waits s := by
  obtain rfl | rfl | rfl | ⟨n, rfl, hn⟩ := hst
  · exact congrArg Host.Outcome.next (readOne_of_waiting hrx ht _ _)
  · exact congrArg Host.Outcome.next (readOne_of_waiting hrx ht _ _)
  · exact congrArg Host.Outcome.next (readOne_of_waiting hrx ht _ _)
  · exact congrArg Host.Outcome.next ((microReadback_of_ne hn).trans (readOne_of_waiting hrx ht _ _))

theorem tpRequest_of_no_ack (h : s.env.tpAcks = []) (o : TpOut) (self : Stmt) : tpRequest o self s = hold self s := by
  simp [tpRequest, h]

/-- R159: an open and a close wait for TP's acknowledgement. -/
theorem waits_of_no_ack (h : s.env.tpAcks = []) {st : Stmt}
    (hst : st = .micro .tpClose ∨ ∃ rate, st = .micro (.tpOpen rate)) : st.Waits s := by
  obtain rfl | ⟨rate, rfl⟩ := hst
  · exact congrArg Host.Outcome.next (tpRequest_of_no_ack h _ _)
  · exact congrArg Host.Outcome.next (tpRequest_of_no_ack h _ _)

/-- R160: a load of the host's that is not at its end waits for the host's next payload byte. -/
theorem waits_of_no_payload (h : s.env.pl = []) (hhs : s.hsActive = false) {n : Word} (hn : s.cnt ≠ n) :
    (Stmt.micro (.payload n)).Waits s := by
  have hbyte : payloadByte s = .notOffered := by simp [payloadByte, hhs, h]
  simp [Stmt.Waits, execMicro, microPayload, hn, hbyte]

/-- R178: a readback byte waits for the host to take it. -/
theorem waits_of_not_rbReady (h : s.env.rbReady = false) (b : Byte) : (Stmt.micro (.handRb b)).Waits s :=
  congrArg Host.Outcome.next (if_neg (by simp [h]))

/-- R131: NextLine waits for an item of the HEX input. -/
theorem waits_of_no_hexItem (h : s.env.hx = []) : (Stmt.micro .nextChar).Waits s := by
  simp [Stmt.Waits, execMicro, microNextChar, h]

/-- R209: the report is the last statement of its operation, and waits for the host to take it. -/
theorem waits_of_not_doneReady (h : s.env.doneReady = false) (hp : s.prog = []) : (Stmt.micro .report).Waits s := by
  have hhold : jump [.micro .report] s = hold (.micro .report) s := by rw [jump, hold, hp]
  exact congrArg Host.Outcome.next ((if_neg (by simp [h])).trans hhold)

end

/-! ## Holds of an operation in flight -/

/-- Settles O42: without its condition the next statement waits, so the step is no change. -/
theorem holdsWaitForTheirCondition : Obligations.HoldsWaitForTheirCondition := by
  intro s st rest hs hb hp
  have hstep : st.Waits (jump rest s) → step s = .next s := step_of_waits hs hb hp
  refine ⟨fun h hst => ?_, fun hrx ht hst => ?_, fun h hst => ?_, ?_, ?_, ?_, ?_, ?_⟩
  · exact hstep (waits_of_not_txReady (s := jump rest s) h hst)
  · exact hstep (waits_of_silence (s := jump rest s) hrx ht hst)
  · exact hstep (waits_of_no_ack (s := jump rest s) h hst)
  · rintro h hhs ⟨n, rfl, hn⟩
    exact hstep (waits_of_no_payload (s := jump rest s) h hhs hn)
  · rintro h ⟨b, rfl⟩
    exact hstep (waits_of_not_rbReady (s := jump rest s) h b)
  · rintro h rfl
    exact hstep (execMicro_yield_of_not_recReady (s := jump rest s) h)
  · rintro h rfl
    exact hstep (waits_of_no_hexItem (s := jump rest s) h)
  · rintro h rfl rfl
    exact hstep (waits_of_not_doneReady (s := jump [] s) h rfl)

/-! ## Requests -/

/-- R233: no statement takes a request. -/
theorem Takes.reqs {st : Stmt} {e e' : Env} (h : Takes st e e') : e'.reqs = e.reqs := by
  cases h with
  | nothing h => rw [h]
  | byte _ _ _ _ h => rw [h]
  | timeout h => rw [h]
  | ack _ _ _ h => rw [h]
  | payload _ _ _ h => rw [h]
  | hexItem _ _ _ _ h => rw [h]

/-- Settles O53: only an idle MUF takes a request, and a busy one takes what its next statement does. -/
theorem requestsWaitWhileBusy : Obligations.RequestsWaitWhileBusy := by
  intro s t hb hs h
  obtain ⟨hidle, -⟩ | ⟨st, rest, -, -, htakes⟩ := step_takes hs h
  · cases hidle.symm.trans hb
  · exact htakes.reqs

end Sys2Proof.Machine
end
